-- ==== Sys2Proof/Word.lean ====
section
/-!
DEFINITION. The words of the block: what the spec treats as bits.

`PW = 32` sizes `period` and `wait_cnt` (00_scope.md R9); `IN12` is the input word of one clock
cycle, `CMD8` a command byte, and `SEL15` the input word extended by `armed` and `phase`
(30_encoding.md R70).
-/

namespace Sys2Proof

/-- A register of `PW = 32` bits (00_scope.md R9). -/
abbrev Word := BitVec 32

/-- A command byte, format `CMD8` (30_encoding.md R71). -/
abbrev Byte := BitVec 8

/-- The input word of one clock cycle, format `IN12` (30_encoding.md R74). -/
abbrev In12 := BitVec 12

/-- The selection word `(armed, phase[1:0], IN12)`, format `SEL15` (30_encoding.md R70, R75). -/
abbrev Sel15 := BitVec 15

end Sys2Proof
end

