-- ==== Sys2Proof/Syntax.lean ====
section
/-!
DEFINITION. The block's enumerations and its operations.

The block executes no instruction stream; its "instructions" are the operations of the selection
table (00_scope.md R1, R5; 30_encoding.md R75, R79). `Instr` has one constructor for each
operation of `spec/opcode_table.json`: the eight rows of INVALID are the one constructor `invalid`
with the byte as its operand, the two rows of DIR_HOLD the one constructor `dirHold` with the row's
form as its operand. START, LED_ON and LED_OFF have no row (R79) and no constructor.
-/

namespace Sys2Proof

/-- The direction flag of the cursor (10_state.md R22, 30_encoding.md R77). -/
inductive Direction where
  | forward
  | backward
deriving DecidableEq, Repr

/-- The scheduler's position in its loop, the block's analogue of a program counter
(10_state.md R28, 30_encoding.md R77). -/
inductive Phase where
  | on
  | wait
  | off
  | adv
deriving DecidableEq, Repr

/-- The status of the byte handled in the previous cycle (10_state.md R27, 30_encoding.md R77). -/
inductive StCode where
  | none
  | changed
  | limit
  | invalid
deriving DecidableEq, Repr

/-- The two rows of DIR_HOLD: `armed = 1` without an edge, `armed = 0` without a tick
(42_direction.md R115). -/
inductive HoldForm where
  | armed
  | cooldown
deriving DecidableEq, Repr

/-- The operations of the block (30_encoding.md R75, `opcode_table.json`). -/
inductive Instr where
  /-- RESET, 45_cycle.md R160. -/
  | reset
  /-- ON, 44_scheduler.md R142. -/
  | on
  /-- WAIT_HOLD, 44_scheduler.md R145. -/
  | waitHold
  /-- WAIT_COUNT, 44_scheduler.md R146. -/
  | waitCount
  /-- WAIT_END, 44_scheduler.md R147. -/
  | waitEnd
  /-- OFF, 44_scheduler.md R148. -/
  | off
  /-- ADV, 41_cursor.md R101. -/
  | adv
  /-- FLIP, 42_direction.md R110. -/
  | flip
  /-- DROP, 42_direction.md R111. -/
  | drop
  /-- DB_COUNT, 42_direction.md R113. -/
  | dbCount
  /-- REARM, 42_direction.md R114. -/
  | rearm
  /-- DIR_HOLD, 42_direction.md R115, in the form of one of its two rows. -/
  | dirHold (form : HoldForm)
  /-- FASTER, 43_speed.md R126. -/
  | faster
  /-- SLOWER, 43_speed.md R127. -/
  | slower
  /-- INVALID, 43_speed.md R128: `raise Invalid(rx_data)`, the byte being any of the 254 values of
  30_encoding.md R73. -/
  | invalid (b : Byte)
  /-- ST_CLEAR, 43_speed.md R129. -/
  | stClear
deriving DecidableEq, Repr

/-- The slice that performs an operation (30_encoding.md R75, column "slice"). -/
inductive Slice where
  | all
  | scheduler
  | direction
  | speed
deriving DecidableEq, Repr

end Sys2Proof
end

