-- ==== Sys2Proof/WellFormed.lean ====
section
/-!
DEFINITION. Which terms of `Instr` are operations of the block.

The one operand with a restricted range is INVALID's byte: "one of the 254 values", every byte but
`0x2B` and `0x2D` (30_encoding.md R73, 43_speed.md R128).
-/

namespace Sys2Proof

/-- A well-formed operation: INVALID's byte is neither `'+'` nor `'-'` (30_encoding.md R73). -/
def Instr.wf : Instr → Bool
  | .reset => true
  | .on => true
  | .waitHold => true
  | .waitCount => true
  | .waitEnd => true
  | .off => true
  | .adv => true
  | .flip => true
  | .drop => true
  | .dbCount => true
  | .rearm => true
  | .dirHold _ => true
  | .faster => true
  | .slower => true
  | .invalid b => b != 0x2B#8 && b != 0x2D#8
  | .stClear => true

end Sys2Proof
end

