-- ==== Sys2Proof/Decode.lean ====
section
/-!
DEFINITION. The formats `IN12` and `SEL15`, the encodings of the enumerations, the selection table
as match and mask, the decoder that reads it and the encoder of one operation.

A selection word selects SEVERAL operations, one or two rows of each slice (30_encoding.md R75), so
`decode` answers the list of the rows that accept the word, in the table's order: scheduler, then
direction, then speed. The counter guards are not in the word; `Machine/Select.lean` applies them.
-/

namespace Sys2Proof

/-! ## Encodings of the enumerations (30_encoding.md R77) -/

/-- `FORWARD = 0`, `BACKWARD = 1`. -/
def Direction.code : Direction → BitVec 1
  | .forward => 0b0#1
  | .backward => 0b1#1

/-- `PH_ON = 00`, `PH_WAIT = 01`, `PH_OFF = 10`, `PH_ADV = 11`. -/
def Phase.code : Phase → BitVec 2
  | .on => 0b00#2
  | .wait => 0b01#2
  | .off => 0b10#2
  | .adv => 0b11#2

/-- The phase with a given code; every code is a phase. -/
def Phase.ofCode (c : BitVec 2) : Phase :=
  if c = 0b00#2 then .on else if c = 0b01#2 then .wait else if c = 0b10#2 then .off else .adv

/-- `ST_NONE = 00`, `ST_CHANGED = 01`, `ST_LIMIT = 10`, `ST_INVALID = 11`. -/
def StCode.code : StCode → BitVec 2
  | .none => 0b00#2
  | .changed => 0b01#2
  | .limit => 0b10#2
  | .invalid => 0b11#2

/-! ## The input word (30_encoding.md R74) -/

/-- Bit 11: synchronous reset. -/
def In12.rst (w : In12) : Bool := w.getLsbD 11

/-- Bit 10: one millisecond has elapsed since the previous tick. -/
def In12.tick (w : In12) : Bool := w.getLsbD 10

/-- Bit 9: one falling edge of the button line. -/
def In12.edgeEvt (w : In12) : Bool := w.getLsbD 9

/-- Bit 8: one received byte is presented. -/
def In12.rxValid (w : In12) : Bool := w.getLsbD 8

/-- Bits 7 to 0: the byte. -/
def In12.rxData (w : In12) : Byte := w.extractLsb' 0 8

/-- The five input ports as one record: what the environment presents in a cycle. -/
structure InFields where
  rst : Bool
  tick : Bool
  edgeEvt : Bool
  rxValid : Bool
  rxData : Byte
deriving DecidableEq, Repr

/-- The fields of an input word. -/
def In12.fields (w : In12) : InFields where
  rst := In12.rst w
  tick := In12.tick w
  edgeEvt := In12.edgeEvt w
  rxValid := In12.rxValid w
  rxData := In12.rxData w

/-- The input word with given fields: `(rst, tick, edge_evt, rx_valid, rx_data)`, `rst` highest. -/
def InFields.word (f : InFields) : In12 :=
  BitVec.ofBool f.rst ++ BitVec.ofBool f.tick ++ BitVec.ofBool f.edgeEvt ++
    BitVec.ofBool f.rxValid ++ f.rxData

/-! ## The selection word (30_encoding.md R70, R75) -/

/-- `sel = (armed, phase[1:0], in[11:0])`. -/
def selWord (armed : Bool) (phase : Phase) (w : In12) : Sel15 :=
  BitVec.ofBool armed ++ phase.code ++ w

/-- Bit 14 of a selection word. -/
def Sel15.armed (sel : Sel15) : Bool := sel.getLsbD 14

/-- Bits 13 to 12 of a selection word. -/
def Sel15.phase (sel : Sel15) : Phase := Phase.ofCode (sel.extractLsb' 12 2)

/-- Bits 11 to 0 of a selection word. -/
def Sel15.input (sel : Sel15) : In12 := sel.extractLsb' 0 12

/-- Bits 7 to 0 of a selection word, INVALID's operand. -/
def Sel15.rxData (sel : Sel15) : Byte := sel.extractLsb' 0 8

/-! ## The selection table -/

/-- One row of `opcode_table.json`: the bits that must match and the operation the row selects, its
operand read from the word. -/
structure Row where
  matchBits : Sel15
  mask : Sel15
  instr : Sel15 → Instr

/-- `sel AND mask = match` (30_encoding.md R75). -/
def Row.accepts (r : Row) (sel : Sel15) : Bool := (sel &&& r.mask) == r.matchBits

/-- The rows of the scheduler slice, after RESET's (30_encoding.md R75). -/
def schedulerRows : List Row :=
  [⟨0x0000, 0x3800, fun _ => .on⟩,
   ⟨0x1000, 0x3C00, fun _ => .waitHold⟩,
   ⟨0x1400, 0x3C00, fun _ => .waitCount⟩,
   ⟨0x1400, 0x3C00, fun _ => .waitEnd⟩,
   ⟨0x2000, 0x3800, fun _ => .off⟩,
   ⟨0x3000, 0x3800, fun _ => .adv⟩]

/-- The rows of the direction slice. -/
def directionRows : List Row :=
  [⟨0x4200, 0x4A00, fun _ => .flip⟩,
   ⟨0x0200, 0x4A00, fun _ => .drop⟩,
   ⟨0x0400, 0x4C00, fun _ => .dbCount⟩,
   ⟨0x0400, 0x4C00, fun _ => .rearm⟩,
   ⟨0x4000, 0x4A00, fun _ => .dirHold .armed⟩,
   ⟨0x0000, 0x4C00, fun _ => .dirHold .cooldown⟩]

/-- The rows of the speed slice; INVALID's eight rows are the disjoint pairs of 30_encoding.md R73. -/
def speedRows : List Row :=
  [⟨0x012B, 0x09FF, fun _ => .faster⟩,
   ⟨0x012D, 0x09FF, fun _ => .slower⟩,
   ⟨0x0180, 0x0980, fun sel => .invalid sel.rxData⟩,
   ⟨0x0140, 0x09C0, fun sel => .invalid sel.rxData⟩,
   ⟨0x0100, 0x09E0, fun sel => .invalid sel.rxData⟩,
   ⟨0x0130, 0x09F0, fun sel => .invalid sel.rxData⟩,
   ⟨0x0120, 0x09F8, fun sel => .invalid sel.rxData⟩,
   ⟨0x0128, 0x09F9, fun sel => .invalid sel.rxData⟩,
   ⟨0x0129, 0x09FF, fun sel => .invalid sel.rxData⟩,
   ⟨0x012F, 0x09FF, fun sel => .invalid sel.rxData⟩,
   ⟨0x0000, 0x0900, fun _ => .stClear⟩]

/-- The 24 rows of `opcode_table.json`, in its order. -/
def selectionTable : List Row :=
  ⟨0x0800, 0x0800, fun _ => .reset⟩ :: (schedulerRows ++ directionRows ++ speedRows)

/-! ## Decoding -/

/-- Every operation whose row accepts the selection word, in the table's order. Total: every word is
accepted by some row (30_encoding.md R73, R75). -/
def decode (sel : Sel15) : List Instr :=
  (selectionTable.filter (fun r => r.accepts sel)).map (fun r => r.instr sel)

/-- The operation a command byte selects, format `CMD8` (30_encoding.md R71, R72). -/
def decodeCommand (b : Byte) : Instr :=
  if b = 0x2B#8 then .faster else if b = 0x2D#8 then .slower else .invalid b

/-- Why a number is not a selection word. -/
inductive DecodeError where
  /-- The number has a bit above bit 14: it is no word of format `SEL15`. Raised by `decodeNumber`;
  safe, since the machine itself forms only 15-bit words. -/
  | widerThanSel15
deriving DecidableEq, Repr

/-- Decode a number as a selection word; no encoding of the format itself is refused. -/
def decodeNumber (w : Nat) : Except DecodeError (List Instr) :=
  if w < 2 ^ 15 then .ok (decode (BitVec.ofNat 15 w)) else .error .widerThanSel15

/-- How soon an operation is named when one word selects several: the operation that an event bit
causes before those that no event causes, `rst` before a byte before an edge before a tick. Where a
word leaves a counter guard open, the operation of a counter at 0 or 1 comes first (assumption
log 5). Used by `decodeTableWord` only; `step` runs them all. -/
def Instr.rank : Instr → Nat
  | .reset => 0
  | .faster => 1
  | .slower => 1
  | .invalid _ => 1
  | .flip => 2
  | .drop => 2
  | .waitEnd => 3
  | .waitCount => 4
  | .rearm => 5
  | .dbCount => 6
  | .on => 7
  | .waitHold => 7
  | .off => 7
  | .adv => 7
  | .dirHold _ => 8
  | .stClear => 9

/-- The first operation of least rank of a list. -/
def leastRank : List Instr → Option Instr
  | [] => none
  | i :: is =>
    match leastRank is with
    | none => some i
    | some j => if j.rank < i.rank then some j else some i

/-- The ONE operation by which the host's table check names a word: of those the word selects, the
one of least rank (assumption log 5). -/
def decodeTableWord (nbits w : Nat) : Option Instr :=
  match decodeNumber (w % 2 ^ nbits) with
  | .ok is => leastRank is
  | .error _ => none

/-! ## Encoding -/

/-- The slice that performs an operation (30_encoding.md R75). -/
def Instr.slice : Instr → Slice
  | .reset => .all
  | .on => .scheduler
  | .waitHold => .scheduler
  | .waitCount => .scheduler
  | .waitEnd => .scheduler
  | .off => .scheduler
  | .adv => .scheduler
  | .flip => .direction
  | .drop => .direction
  | .dbCount => .direction
  | .rearm => .direction
  | .dirHold _ => .direction
  | .faster => .speed
  | .slower => .speed
  | .invalid _ => .speed
  | .stClear => .speed

/-- The bits of a selection word that an operation fixes (30_encoding.md R75); INVALID with its byte
fixes the byte. -/
def Instr.mask : Instr → Sel15
  | .reset => 0x0800
  | .on => 0x3800
  | .waitHold => 0x3C00
  | .waitCount => 0x3C00
  | .waitEnd => 0x3C00
  | .off => 0x3800
  | .adv => 0x3800
  | .flip => 0x4A00
  | .drop => 0x4A00
  | .dbCount => 0x4C00
  | .rearm => 0x4C00
  | .dirHold .armed => 0x4A00
  | .dirHold .cooldown => 0x4C00
  | .faster => 0x09FF
  | .slower => 0x09FF
  | .invalid _ => 0x09FF
  | .stClear => 0x0900

/-- The values of those bits (30_encoding.md R75). -/
def Instr.matchBits : Instr → Sel15
  | .reset => 0x0800
  | .on => 0x0000
  | .waitHold => 0x1000
  | .waitCount => 0x1400
  | .waitEnd => 0x1400
  | .off => 0x2000
  | .adv => 0x3000
  | .flip => 0x4200
  | .drop => 0x0200
  | .dbCount => 0x0400
  | .rearm => 0x0400
  | .dirHold .armed => 0x4000
  | .dirHold .cooldown => 0x0000
  | .faster => 0x012B
  | .slower => 0x012D
  | .invalid b => 0x0100 ||| b.setWidth 15
  | .stClear => 0x0000

/-- The selection words of an operation: its own bits, and the bits its row leaves free taken from
`fill`. -/
def encode (i : Instr) (fill : Sel15) : Sel15 :=
  i.matchBits ||| (fill &&& ~~~i.mask)

end Sys2Proof
end

