-- ==== Sys2Proof/Config.lean ====
section
/-!
DEFINITION. The seven build-time parameters, their constraints, and the free values.

The parameters are arguments of the model, not registers (00_scope.md R6, R15; 10_state.md R32). The
fixed type of `step` has no argument for them, so a state carries its `Config` in a field that no
operation writes (assumption log 1). A configuration that breaks a constraint is refused by `step`
(00_scope.md R8, 93_implementation_defined.md U7).
-/

namespace Sys2Proof

/-- The seven parameters (00_scope.md R6). Periods are signed integers of milliseconds. -/
structure Config where
  /-- `N`, the number of positions in the ring. -/
  n : Nat
  /-- `RING_IDS`, the physical line driven by each position, in order (20_memory.md R56). -/
  ringIds : List Nat
  /-- `INIT_PERIOD`, the period after reset. -/
  initPeriod : Int
  /-- `MIN_PERIOD`, the inclusive lower bound of the period. -/
  minPeriod : Int
  /-- `MAX_PERIOD`, the inclusive upper bound of the period. -/
  maxPeriod : Int
  /-- `STEP`, the amount one command changes the period by. -/
  step : Int
  /-- `DEBOUNCE_MS`, the length of the cooldown in ticks. -/
  debounceMs : Nat
deriving DecidableEq, Repr

/-- The constraints on the parameters (00_scope.md R8; `PW = 32`, R9). -/
abbrev Config.legal (c : Config) : Prop :=
  2 ≤ c.n ∧
  (1 ≤ c.minPeriod ∧ c.minPeriod ≤ c.initPeriod ∧ c.initPeriod ≤ c.maxPeriod) ∧
  1 ≤ c.step ∧
  c.maxPeriod + c.step ≤ 2 ^ 31 - 1 ∧
  1 ≤ c.debounceMs ∧
  c.ringIds.length = c.n ∧
  c.ringIds.Nodup

/-- `IW = max(1, ceil(log2 N))`, the width of `index` (00_scope.md R9). -/
def Config.indexWidth (c : Config) : Nat := max 1 (Nat.log2 (c.n - 1) + 1)

/-- `DW = max(1, ceil(log2(DEBOUNCE_MS + 1)))`, the width of `db_cnt` (00_scope.md R9). -/
def Config.debounceWidth (c : Config) : Nat := max 1 (Nat.log2 c.debounceMs + 1)

/-- CFG-REF, the reference configuration (00_scope.md R7). `DEBOUNCE_MS` and `RING_IDS` are open
parameters: DESIGN CHOICE 20 (the value program P3 of 95_test_vectors.md gives CFG-REF) and the
positions' own numbers as line identifiers (assumption log 2; unsafe). -/
def Config.reference : Config where
  n := 9
  ringIds := [0, 1, 2, 3, 4, 5, 6, 7, 8]
  initPeriod := 500
  minPeriod := 50
  maxPeriod := 60000
  step := 50
  debounceMs := 20

/-- CFG-T, the small configuration of 95_test_vectors.md section 1 (`RING_IDS` as in CFG-REF's
DESIGN CHOICE). -/
def Config.small : Config where
  n := 3
  ringIds := [0, 1, 2]
  initPeriod := 2
  minPeriod := 1
  maxPeriod := 4
  step := 1
  debounceMs := 2

/-- The input word the environment presents in a cycle for which the state's script names none: the
environment is a free input (00_scope.md R14), so this value is unconstrained (assumption log 3;
safe). -/
opaque Config.freeInput : Nat → In12

/-- What ADV leaves in `index` when it finds a value of `N` or more: `next` is not defined there
(93_implementation_defined.md U6, treatment "any value"). Arguments: cycle number, the value found.
Free value (assumption log 4; safe). -/
opaque Config.freeIndex : Nat → Nat → Nat

/-- What a ring write at a position of `N` or more leaves in each cell: `led[pos]` and `onehot` are
not defined there (93_implementation_defined.md U6, treatment "any value"). Arguments: cycle number,
the position, the level written, the cell. Free value (assumption log 4; safe). -/
opaque Config.freeCell : Nat → Nat → Bool → Nat → Bool

end Sys2Proof
end

