-- ==== Sys2Proof/Machine/State.lean ====
section
/-!
DEFINITION. The state of the block, the ways a step can stop, and the state after reset.

The nine registers are those of 10_state.md R20; `cfg`, `script` and `cycleNo` are the MODEL's own
fields (assumption logs 1 and 3): the build-time parameters, the environment's input words for the
coming cycles, and the number of cycles performed.
-/

namespace Sys2Proof.Machine

/-- The ring space (20_memory.md R50): the cells that hold 1, as (position, 1) pairs with rising
positions. A position that is not listed holds 0 (the reset contents, 10_state.md R34). -/
abbrev Memory := List Host.Cell

/-- The canonical form: positions strictly rising, and every listed cell holds 1 (a cell is one bit,
20_memory.md R50; a cell that holds 0 is not listed). -/
abbrev Memory.wf (m : Memory) : Prop :=
  m.Pairwise (fun a b => a.1 < b.1) ∧ ∀ c ∈ m, c.2 = 1#8

/-- The state of the block. -/
structure State where
  /-- `index`, the position of the cursor (10_state.md R21); a number, as 00_scope.md R9 allows. -/
  index : Nat
  /-- `direction`, the direction flag (R22). -/
  direction : Direction
  /-- `period`, the wait duration in ms, 32 bits, two's complement (R23). -/
  period : Word
  /-- `armed`, 1 = ARMED, 0 = COOLDOWN (R24). -/
  armed : Bool
  /-- `db_cnt`, ticks left of the debounce one-shot (R25); a number, as 00_scope.md R9 allows. -/
  dbCnt : Nat
  /-- `led`, the level of each ring line (R26), as the ring space's cells. -/
  led : Memory
  /-- `phase`, the scheduler's position in its loop (R28). -/
  phase : Phase
  /-- `wait_cnt`, ticks left of the current wait, 32 bits, unsigned (R29). -/
  waitCnt : Word
  /-- `st_code`, the status of the byte handled in the previous cycle (R27). -/
  stCode : StCode
  /-- MODEL: the build-time parameters (00_scope.md R6); no operation writes them. -/
  cfg : Config
  /-- MODEL: the input words the environment presents in the coming cycles, first first. -/
  script : List In12
  /-- MODEL: the number of cycles performed; the argument of the free values. -/
  cycleNo : Nat
deriving DecidableEq, Repr

/-- The faults of the block: there are none. "No fatal conditions exist in the core"; "A model has
no fault outcome and no stuck outcome for this block" (60_exceptions.md R178, 45_cycle.md R162). -/
inductive Fault where
deriving DecidableEq, Repr

/-- The refusals. -/
inductive Refusal where
  /-- An operation that has no meaning in the model; raised by an arm of `exec`. No arm raises it.
  Safe. -/
  | notModelled (mnemonic : String)
  /-- The configuration breaks a constraint of 00_scope.md R8; raised by `step`. "A model refuses a
  configuration that breaks a constraint (it gives such a configuration no behaviour)". Safe. -/
  | illegalConfiguration
deriving DecidableEq, Repr

/-- The reset state of a configuration (10_state.md R34). The script is empty: the environment is
then free in every cycle (assumption log 3). -/
def State.resetWith (c : Config) : State where
  index := 0
  direction := .forward
  period := BitVec.ofInt 32 c.initPeriod
  armed := true
  dbCnt := 0
  led := []
  phase := .on
  waitCnt := 0
  stCode := .none
  cfg := c
  script := []
  cycleNo := 0

/-- The machine right after reset, in the reference configuration CFG-REF (00_scope.md R7). -/
def State.reset : State := State.resetWith Config.reference

end Sys2Proof.Machine
end

