-- ==== Sys2Proof/Machine/Ops.lean ====
section
/-!
DEFINITION. The named operations over the ring space and the registers, and the two reports.

The block takes no exception and returns from none: no operation traps, nothing is saved, and no
control transfer happens (60_exceptions.md R178, R184, R185). What the spec writes `raise` are the
two status reports `raiseInvalid` and `raiseLimit` (00_scope.md R12); they are this block's whole
exception entry, and there is no return operation (R185).
-/

namespace Sys2Proof.Machine

/-! ## The ring space -/

/-- `MemRead(pos, 1)`: the level of one cell (00_scope.md R12). No operation of the block uses it. -/
def Memory.level (m : Memory) (pos : Nat) : Bool := decide ((pos, 1#8) ∈ m)

/-- Put a cell that holds 1 in its place among the rising positions. -/
def Memory.insert : Memory → Nat → Memory
  | [], pos => [(pos, 1#8)]
  | c :: m, pos => if pos < c.1 then (pos, 1#8) :: c :: m else c :: Memory.insert m pos

/-- Take every entry of one position out. -/
def Memory.remove (m : Memory) (pos : Nat) : Memory := m.filter (fun c => c.1 != pos)

/-- `led[pos] <- v`, every other cell as it was (20_memory.md R51). -/
def Memory.write (m : Memory) (pos : Nat) (v : Bool) : Memory :=
  if v then (m.remove pos).insert pos else m.remove pos

/-- The ring of `n` cells with given levels. -/
def Memory.ofLevels (n : Nat) (f : Nat → Bool) : Memory :=
  ((List.range n).filter f).map (fun a => (a, 1#8))

/-- `onehot(i)` (00_scope.md R10). -/
def Memory.onehot (i : Nat) : Memory := [(i, 1#8)]

/-- `MemWrite(pos, 1, v)` (20_memory.md R51). The address is below `N` in every reachable state
(R54); for a position of `N` or more the ring's cells are free values
(93_implementation_defined.md U6, assumption log 4). -/
def memWrite (s : State) (pos : Nat) (v : Bool) : Memory :=
  if pos < s.cfg.n then s.led.write pos v
  else Memory.ofLevels s.cfg.n (Config.freeCell s.cycleNo pos v)

/-! ## The cursor -/

/-- `next(i, d)` on a ring of `n` positions, by its four cases (41_cursor.md R100). -/
def next (n : Nat) (i : Nat) : Direction → Nat
  | .forward => if i = n - 1 then 0 else i + 1
  | .backward => if i = 0 then n - 1 else i - 1

/-- What ADV writes to `index`: `next(index, direction)`, and a free value of the register's width
where `next` is not defined (93_implementation_defined.md U6, assumption log 4). -/
def advanceIndex (s : State) : Nat :=
  if s.index < s.cfg.n then next s.cfg.n s.index s.direction
  else Config.freeIndex s.cycleNo s.index % 2 ^ s.cfg.indexWidth

/-! ## Register writes -/

/-- `pc <- target` (00_scope.md R12). -/
def setPhase (s : State) (p : Phase) : State := { s with phase := p }

/-- `led[index] <- v`: the ring write of LED_ON and LED_OFF (40_ring.md R90, R91). -/
def setLine (s : State) (v : Bool) : State := { s with led := memWrite s s.index v }

/-- `wait_cnt <- v`. -/
def setWaitCnt (s : State) (v : Word) : State := { s with waitCnt := v }

/-- `index <- i`. -/
def setIndex (s : State) (i : Nat) : State := { s with index := i }

/-- `direction <- d`. -/
def setDirection (s : State) (d : Direction) : State := { s with direction := d }

/-- `armed <- a` and `db_cnt <- k`, the debounce guard. -/
def setGuard (s : State) (a : Bool) (k : Nat) : State := { s with armed := a, dbCnt := k }

/-- `period <- p`, an integer in 32 bits of two's complement (00_scope.md R9, R13). -/
def setPeriod (s : State) (p : Int) : State := { s with period := BitVec.ofInt 32 p }

/-- `st_code <- c`. -/
def setStatus (s : State) (c : StCode) : State := { s with stCode := c }

/-- All nine registers to their reset values (10_state.md R34); the model's own fields stay. -/
def resetRegisters (s : State) : State :=
  { State.resetWith s.cfg with script := s.script, cycleNo := s.cycleNo }

/-! ## The reports -/

/-- `raise Invalid(b)`: `st_code <- ST_INVALID`, nothing else changes; the byte is kept nowhere
(00_scope.md R12, 60_exceptions.md R175). -/
def raiseInvalid (s : State) (_b : Byte) : State := setStatus s .invalid

/-- `raise Limit`: `st_code <- ST_LIMIT` together with the clamped period write (00_scope.md R12,
60_exceptions.md R176). -/
def raiseLimit (s : State) (bound : Int) : State := setStatus (setPeriod s bound) .limit

/-! ## The environment -/

/-- The input word of this cycle: the script's first word, and where the script names none a free
value (00_scope.md R14, assumption log 3). -/
def State.inputWord (s : State) : In12 :=
  match s.script with
  | w :: _ => w
  | [] => Config.freeInput s.cycleNo

/-- The cycle is over: the next one reads the script's next word. -/
def State.endCycle (s : State) : State :=
  { s with script := s.script.tail, cycleNo := s.cycleNo + 1 }

end Sys2Proof.Machine
end

