-- ==== Sys2Proof/Machine/Operands.lean ====
section
/-!
DEFINITION. The operands: registers and constants as the rules read them, and the counter guards.

No operation has an immediate; its operands are registers and build-time constants, which enter the
rules as mathematical integers (30_encoding.md R78, 00_scope.md R13).
-/

namespace Sys2Proof.Machine

/-- `period` as a signed integer (10_state.md R23). -/
def periodInt (s : State) : Int := s.period.toInt

/-- FASTER's `t = period - STEP`, which may be below `MIN_PERIOD` or negative (43_speed.md R126). -/
def fasterTarget (s : State) : Int := periodInt s - s.cfg.step

/-- SLOWER's `t = period + STEP` (43_speed.md R127). -/
def slowerTarget (s : State) : Int := periodInt s + s.cfg.step

/-- The guard `wait_cnt >= 2` of WAIT_COUNT (30_encoding.md R75). -/
def waitLeft (s : State) : Bool := decide (2 ≤ s.waitCnt.toNat)

/-- The guard `wait_cnt <= 1` of WAIT_END. -/
def waitOver (s : State) : Bool := decide (s.waitCnt.toNat ≤ 1)

/-- The guard `db_cnt >= 2` of DB_COUNT. -/
def cooldownLeft (s : State) : Bool := decide (2 ≤ s.dbCnt)

/-- The guard `db_cnt <= 1` of REARM. -/
def cooldownOver (s : State) : Bool := decide (s.dbCnt ≤ 1)

end Sys2Proof.Machine
end

