-- ==== Sys2Proof/Machine/Flags.lean ====
section
/-!
DEFINITION. The flag computations. The block has no arithmetic condition codes; its flag-like state
is `direction`, `armed` and `st_code` (10_state.md R30).
-/

namespace Sys2Proof.Machine

/-- `1 - direction` (42_direction.md R110). -/
def flipped : Direction → Direction
  | .forward => .backward
  | .backward => .forward

/-- FASTER takes its full step: "would not go at or below `MIN_PERIOD`" (43_speed.md R126, R133). -/
def fasterStays (s : State) : Bool := decide (s.cfg.minPeriod < fasterTarget s)

/-- SLOWER takes its full step: it would not go at or above `MAX_PERIOD` (43_speed.md R127). -/
def slowerStays (s : State) : Bool := decide (slowerTarget s < s.cfg.maxPeriod)

/-- A full step: the period changes and the report is `ST_CHANGED` (43_speed.md R126, R127). -/
def acceptPeriod (s : State) (t : Int) : State := setStatus (setPeriod s t) .changed

end Sys2Proof.Machine
end

