-- ==== Sys2Proof/Machine/Cursor.lean ====
section
/-!
DEFINITION. The chase cursor's operation ADV (41_cursor.md).
-/

namespace Sys2Proof.Machine

/-- `advance(index, direction) = (previous_index, next_index)`, the source's contract
(41_cursor.md R102); the hardware keeps no register for the first component. -/
def advance (s : State) : Nat × Nat := (s.index, advanceIndex s)

/-- ADV: `index <- next(index, direction)`, `phase <- PH_ON` (41_cursor.md R101). -/
def execAdv (s : State) : Host.Outcome State Fault Refusal :=
  .next (setPhase (setIndex s (advance s).2) .on)

end Sys2Proof.Machine
end

