-- ==== Sys2Proof/Machine/DirectionUnit.lean ====
section
/-!
DEFINITION. The direction controller's operations FLIP, DROP, DB_COUNT, REARM and DIR_HOLD
(42_direction.md).
-/

namespace Sys2Proof.Machine

/-- FLIP: toggle the direction and start the cooldown, all at one clock edge (42_direction.md
R110). -/
def execFlip (s : State) : Host.Outcome State Fault Refusal :=
  .next (setGuard (setDirection s (flipped s.direction)) false s.cfg.debounceMs)

/-- DROP: an edge during the cooldown is ignored and not remembered; no register is written
(42_direction.md R111, 60_exceptions.md R177). -/
def execDrop (s : State) : Host.Outcome State Fault Refusal := .next s

/-- DB_COUNT: one millisecond of the cooldown passes; `armed` is not written (42_direction.md
R113). -/
def execDbCount (s : State) : Host.Outcome State Fault Refusal :=
  .next (setGuard s s.armed (s.dbCnt - 1))

/-- REARM: the one-shot fires and edge detection is enabled again (42_direction.md R114). -/
def execRearm (s : State) : Host.Outcome State Fault Refusal := .next (setGuard s true 0)

/-- DIR_HOLD, in either form: the slice writes nothing (42_direction.md R115). -/
def execDirHold (_form : HoldForm) (s : State) : Host.Outcome State Fault Refusal := .next s

end Sys2Proof.Machine
end

