-- ==== Sys2Proof/Machine/Reset.lean ====
section
/-!
DEFINITION. RESET (45_cycle.md R160).
-/

namespace Sys2Proof.Machine

/-- RESET: every register takes its reset value, whatever it held (45_cycle.md R160,
10_state.md R34). -/
def execReset (s : State) : Host.Outcome State Fault Refusal := .next (resetRegisters s)

end Sys2Proof.Machine
end

