-- ==== Sys2Proof/Machine/Ring.lean ====
section
/-!
DEFINITION. The two ring primitives LED_ON and LED_OFF; they are the ring-writing parts of ON and OFF
and are not selected on their own (40_ring.md R90, R91; 30_encoding.md R79).
-/

namespace Sys2Proof.Machine

/-- LED_ON: light the line at the cursor, every other cell unchanged (40_ring.md R90). -/
def ledOn (s : State) : State := setLine s true

/-- LED_OFF: extinguish the line at the cursor, every other cell unchanged (40_ring.md R91). -/
def ledOff (s : State) : State := setLine s false

end Sys2Proof.Machine
end

