-- ==== Sys2Proof/Machine/Scheduler.lean ====
section
/-!
DEFINITION. The scheduler's operations ON, WAIT_HOLD, WAIT_COUNT, WAIT_END and OFF
(44_scheduler.md). START is the ON of the first cycle after a reset (R141).
-/

namespace Sys2Proof.Machine

/-- ON: light the line at the cursor and load the wait with the period as it is at the start of the
cycle (44_scheduler.md R142). -/
def execOn (s : State) : Host.Outcome State Fault Refusal :=
  .next (setPhase (setWaitCnt (ledOn s) s.period) .wait)

/-- WAIT_HOLD: a cycle of the wait without a tick writes nothing (44_scheduler.md R145). -/
def execWaitHold (s : State) : Host.Outcome State Fault Refusal := .next s

/-- WAIT_COUNT: one millisecond of the wait passes (44_scheduler.md R146). -/
def execWaitCount (s : State) : Host.Outcome State Fault Refusal :=
  .next (setWaitCnt s (s.waitCnt - 1))

/-- WAIT_END: the last millisecond of the wait passes (44_scheduler.md R147). -/
def execWaitEnd (s : State) : Host.Outcome State Fault Refusal :=
  .next (setPhase (setWaitCnt s 0) .off)

/-- OFF: extinguish the line at the cursor (44_scheduler.md R148). -/
def execOff (s : State) : Host.Outcome State Fault Refusal := .next (setPhase (ledOff s) .adv)

end Sys2Proof.Machine
end

