-- ==== Sys2Proof/Machine/Speed.lean ====
section
/-!
DEFINITION. The speed controller's operations FASTER, SLOWER, INVALID and ST_CLEAR (43_speed.md).
-/

namespace Sys2Proof.Machine

/-- FASTER: shorten the period by `STEP`; a step that would go at or below `MIN_PERIOD` is clamped
to it and reported as the limit (43_speed.md R126, R133). -/
def execFaster (s : State) : Host.Outcome State Fault Refusal :=
  .next (if fasterStays s then acceptPeriod s (fasterTarget s) else raiseLimit s s.cfg.minPeriod)

/-- SLOWER: lengthen the period by `STEP`; a step that would go at or above `MAX_PERIOD` is clamped
to it and reported as the limit (43_speed.md R127). -/
def execSlower (s : State) : Host.Outcome State Fault Refusal :=
  .next (if slowerStays s then acceptPeriod s (slowerTarget s) else raiseLimit s s.cfg.maxPeriod)

/-- INVALID: any other byte is reported and changes nothing else (43_speed.md R128). -/
def execInvalid (b : Byte) (s : State) : Host.Outcome State Fault Refusal := .next (raiseInvalid s b)

/-- ST_CLEAR: a cycle without a byte clears the report (43_speed.md R129). -/
def execStClear (s : State) : Host.Outcome State Fault Refusal := .next (setStatus s .none)

end Sys2Proof.Machine
end

