-- ==== Sys2Proof/Machine/Dispatch.lean ====
section
/-! DEFINITION. The meaning of each operation, one arm per constructor. -/

namespace Sys2Proof.Machine

/-- What one operation does to the state; when it is performed is `select`'s (30_encoding.md R75). -/
def exec (i : Instr) (s : State) : Host.Outcome State Fault Refusal :=
  match i with
  | .reset => Sys2Proof.Machine.execReset s
  | .on => Sys2Proof.Machine.execOn s
  | .waitHold => Sys2Proof.Machine.execWaitHold s
  | .waitCount => Sys2Proof.Machine.execWaitCount s
  | .waitEnd => Sys2Proof.Machine.execWaitEnd s
  | .off => Sys2Proof.Machine.execOff s
  | .adv => Sys2Proof.Machine.execAdv s
  | .flip => Sys2Proof.Machine.execFlip s
  | .drop => Sys2Proof.Machine.execDrop s
  | .dbCount => Sys2Proof.Machine.execDbCount s
  | .rearm => Sys2Proof.Machine.execRearm s
  | .dirHold form => Sys2Proof.Machine.execDirHold form s
  | .faster => Sys2Proof.Machine.execFaster s
  | .slower => Sys2Proof.Machine.execSlower s
  | .invalid b => Sys2Proof.Machine.execInvalid b s
  | .stClear => Sys2Proof.Machine.execStClear s

end Sys2Proof.Machine
end

