-- ==== Sys2Proof/Machine/Select.lean ====
section
/-!
DEFINITION. Which operations a cycle performs (30_encoding.md R75), and performing them.

The operations of one cycle are performed in the table's order, scheduler first, then the edge, then
the one-shot, then the byte: "with that order the sequential effects equal the cycle's simultaneous
effects" (45_cycle.md R171; R163, R165). That this order reads only start-of-cycle values is the
obligation `StepIsCycleFunction`.
-/

namespace Sys2Proof.Machine

/-- The selection word of a cycle: `(armed, phase[1:0], in)` of the start-of-cycle registers. -/
def sel (s : State) (w : In12) : Sel15 := selWord s.armed s.phase w

/-- The counter guard of an operation (30_encoding.md R75, column "counter guard"). -/
def counterGuard (s : State) : Instr → Bool
  | .reset => true
  | .on => true
  | .waitHold => true
  | .waitCount => waitLeft s
  | .waitEnd => waitOver s
  | .off => true
  | .adv => true
  | .flip => true
  | .drop => true
  | .dbCount => cooldownLeft s
  | .rearm => cooldownOver s
  | .dirHold _ => true
  | .faster => true
  | .slower => true
  | .invalid _ => true
  | .stClear => true

/-- The operations performed in a cycle: `sel AND mask = match` and the counter guard holds
(30_encoding.md R75). -/
def select (s : State) (w : In12) : List Instr := (decode (sel s w)).filter (counterGuard s)

/-- Perform operations one after another. -/
def execAll : List Instr → State → Host.Outcome State Fault Refusal
  | [], s => .next s
  | i :: is, s =>
    match exec i s with
    | .next t => execAll is t
    | .fault f => .fault f
    | .refused r => .refused r

/-- One clock cycle under the script's word: select, perform, and go on to the next word. -/
def runCycle (s : State) : Host.Outcome State Fault Refusal :=
  match execAll (select s s.inputWord) s with
  | .next t => .next t.endCycle
  | .fault f => .fault f
  | .refused r => .refused r

/-- Place a selection word: its `phase` and `armed` bits in the registers, its input word in front of
the environment's next words. -/
def placeWord (s : State) (sw : Sel15) : State :=
  { s with phase := sw.phase, armed := sw.armed, script := sw.input :: s.script.tail }

end Sys2Proof.Machine
end

