-- ==== Sys2Proof/Machine/Step.lean ====
section
/-!
DEFINITION. One step is one clock cycle (00_scope.md R5). A configuration that breaks 00_scope.md R8
has no behaviour and is refused.
-/

namespace Sys2Proof.Machine

/-- One clock cycle of the block. -/
def step (s : State) : Host.Outcome State Fault Refusal :=
  if s.cfg.legal then runCycle s else .refused .illegalConfiguration

/-- The state with the selection word `w` stored where the next cycle reads it: bits 14 to 12 in
`armed` and `phase`, bits 11 to 0 as the environment's next input word. -/
def State.withFetchWord (s : State) (nbits w : Nat) : State :=
  placeWord s (BitVec.ofNat 15 (w % 2 ^ nbits))

end Sys2Proof.Machine
end

