-- ==== Sys2Proof/Machine/CycleFunction.lean ====
section
/-!
DEFINITION. The clock-cycle function `cycle(s, in)` as 45_cycle.md R161 writes it: three slices, each
reading only start-of-cycle registers. The machine itself (`step`) selects operations by the table and
performs them; the obligation `StepIsCycleFunction` says that both agree.
-/

namespace Sys2Proof.Machine

/-- The scheduler slice of `cycle`: `led`, `wait_cnt`, `phase`, `index` after the cycle
(45_cycle.md R161, R163). -/
def schedulerSlice (s : State) (w : In12) : Memory × Word × Phase × Nat :=
  match s.phase with
  | .on => (memWrite s s.index true, s.period, .wait, s.index)
  | .wait =>
    if w.tick then
      if s.waitCnt.toNat ≤ 1 then (s.led, 0, .off, s.index)
      else (s.led, s.waitCnt - 1, .wait, s.index)
    else (s.led, s.waitCnt, .wait, s.index)
  | .off => (memWrite s s.index false, s.waitCnt, .adv, s.index)
  | .adv => (s.led, s.waitCnt, .on, advanceIndex s)

/-- The direction slice of `cycle`: `direction`, `armed`, `db_cnt` after the cycle. -/
def directionSlice (s : State) (w : In12) : Direction × Bool × Nat :=
  if s.armed then
    if w.edgeEvt then (flipped s.direction, false, s.cfg.debounceMs)
    else (s.direction, s.armed, s.dbCnt)
  else
    if w.tick then
      if s.dbCnt ≤ 1 then (s.direction, true, 0)
      else (s.direction, s.armed, s.dbCnt - 1)
    else (s.direction, s.armed, s.dbCnt)

/-- The speed slice of `cycle`: `period`, `st_code` after the cycle. -/
def speedSlice (s : State) (w : In12) : Word × StCode :=
  if w.rxValid then
    if w.rxData = 0x2B#8 then
      if periodInt s - s.cfg.step > s.cfg.minPeriod then
        (BitVec.ofInt 32 (periodInt s - s.cfg.step), .changed)
      else (BitVec.ofInt 32 s.cfg.minPeriod, .limit)
    else if w.rxData = 0x2D#8 then
      if periodInt s + s.cfg.step < s.cfg.maxPeriod then
        (BitVec.ofInt 32 (periodInt s + s.cfg.step), .changed)
      else (BitVec.ofInt 32 s.cfg.maxPeriod, .limit)
    else (s.period, .invalid)
  else (s.period, .none)

/-- The clock-cycle function (45_cycle.md R161); the model's own fields are not touched. -/
def cycle (s : State) (w : In12) : State :=
  if w.rst then
    { s with
      index := 0, direction := .forward, period := BitVec.ofInt 32 s.cfg.initPeriod, armed := true,
      dbCnt := 0, led := [], phase := .on, waitCnt := 0, stCode := .none }
  else
    { s with
      led := (schedulerSlice s w).1
      waitCnt := (schedulerSlice s w).2.1
      phase := (schedulerSlice s w).2.2.1
      index := (schedulerSlice s w).2.2.2
      direction := (directionSlice s w).1
      armed := (directionSlice s w).2.1
      dbCnt := (directionSlice s w).2.2
      period := (speedSlice s w).1
      stCode := (speedSlice s w).2 }

end Sys2Proof.Machine
end

