-- ==== Sys2Proof/Machine/EventView.lean ====
section
/-!
DEFINITION. The event-level view: the source's own model, without a clock (45_cycle.md R170), and how
the cycles of the hardware are read as its labels (R171). `cycle` is normative; this view adds no
behaviour.

Each label is one atomic step (R170 (i)), the loop's order is its position (ii), the timer is a
one-shot that a label spends (iii), and `direction` and `period` are read by `adv` and `on` alone
(iv). Time passes in ticks (R171), an occurrence of its own (assumption log 16).
-/

namespace Sys2Proof.Machine

/-- The loop's position (45_cycle.md R170). "waiting" carries the sampled period and the ticks since
it was sampled. -/
inductive LoopPos where
  | light
  | waiting (sampled : Int) (elapsed : Nat)
  | extinguish
  | advance
deriving DecidableEq, Repr

/-- The labels of the event-level system (45_cycle.md R170). -/
inductive Label where
  | on
  | wake
  | off
  | adv
  | edge
  | fire
  | byte (b : Byte)
deriving DecidableEq, Repr

/-- What happens in the event-level system: a label, one unit of time, or a new start. -/
inductive Occurrence where
  /-- A label of 45_cycle.md R170. -/
  | label (l : Label)
  /-- A millisecond passes: "Time 'elapsed' in rule R170 is counted in ticks" (45_cycle.md R171). -/
  | tick
  /-- The system starts anew: how a cycle with `rst = 1` is read. DESIGN CHOICE, safe: R171 neither
  maps RESET to a label nor drops it (assumption log 19). -/
  | restart
deriving DecidableEq, Repr

/-- The data model of the event-level system: the source's §3 data, the loop's position, the guard's
one-shot timer, and the status reports (45_cycle.md R170). -/
structure EventState where
  index : Nat
  direction : Direction
  period : Int
  armed : Bool
  /-- The ticks since the accepted edge while the one-shot timer is in flight. -/
  timer : Option Nat
  ring : Memory
  position : LoopPos
  /-- The status reports made so far, oldest first. -/
  reports : List StCode
deriving DecidableEq, Repr

/-- Where the event-level system starts (10_state.md R34 in its terms). -/
def EventState.start (c : Config) : EventState where
  index := 0
  direction := .forward
  period := c.initPeriod
  armed := true
  timer := none
  ring := []
  position := .light
  reports := []

/-- "position is 'waiting' and the sampled period has elapsed". -/
def LoopPos.waitIsOver : LoopPos → Bool
  | .light => false
  | .waiting sampled elapsed => decide (sampled ≤ elapsed)
  | .extinguish => false
  | .advance => false

/-- "`DEBOUNCE_MS` has elapsed since the accepted edge". -/
def timerIsOver (c : Config) : Option Nat → Bool
  | none => false
  | some elapsed => decide (c.debounceMs ≤ elapsed)

/-- One tick of the time a position counts. -/
def LoopPos.passTick : LoopPos → LoopPos
  | .light => .light
  | .waiting sampled elapsed => .waiting sampled (elapsed + 1)
  | .extinguish => .extinguish
  | .advance => .advance

/-- One tick passes: both running timers count it. -/
def EventState.passTick (e : EventState) : EventState :=
  { e with position := e.position.passTick, timer := e.timer.map (· + 1) }

/-- "enabled when" (45_cycle.md R170). -/
def Label.enabled (c : Config) (e : EventState) : Label → Bool
  | .on => e.position == .light
  | .wake => e.position.waitIsOver
  | .off => e.position == .extinguish
  | .adv => e.position == .advance
  | .edge => true
  | .fire => !e.armed && timerIsOver c e.timer
  | .byte _ => true

/-- The period a byte leaves (45_cycle.md R170, `byte(b)`). -/
def bytePeriod (c : Config) (p : Int) (b : Byte) : Int :=
  if b = 0x2B#8 then max c.minPeriod (p - c.step)
  else if b = 0x2D#8 then min c.maxPeriod (p + c.step)
  else p

/-- The one status report of a byte (45_cycle.md R170; which one, 43_speed.md R126 to R128). -/
def byteReport (c : Config) (p : Int) (b : Byte) : StCode :=
  if b = 0x2B#8 then if p - c.step > c.minPeriod then .changed else .limit
  else if b = 0x2D#8 then if p + c.step < c.maxPeriod then .changed else .limit
  else .invalid

/-- "effect" (45_cycle.md R170). `fire` also spends the one-shot timer, which "fires exactly once"
(R170 (iii)). -/
def Label.effect (c : Config) (e : EventState) : Label → EventState
  | .on => { e with ring := e.ring.write e.index true, position := .waiting e.period 0 }
  | .wake => { e with position := .extinguish }
  | .off => { e with ring := e.ring.write e.index false, position := .advance }
  | .adv => { e with index := next c.n e.index e.direction, position := .light }
  | .edge =>
    if e.armed then { e with direction := flipped e.direction, armed := false, timer := some 0 }
    else e
  | .fire => { e with armed := true, timer := none }
  | .byte b =>
    { e with period := bytePeriod c e.period b, reports := e.reports ++ [byteReport c e.period b] }

/-- One occurrence; a label that is not enabled cannot happen. -/
def occur (c : Config) (e : EventState) : Occurrence → Option EventState
  | .label l => if l.enabled c e then some (l.effect c e) else none
  | .tick => some e.passTick
  | .restart => some (EventState.start c)

/-- A run of the event-level system. -/
def eventRun (c : Config) : List Occurrence → EventState → Option EventState
  | [], e => some e
  | o :: os, e =>
    match occur c e o with
    | some e' => eventRun c os e'
    | none => none

/-! ## The correspondence (45_cycle.md R171) -/

/-- An operation read as its label; the operations R171 drops have none. RESET has none either:
DESIGN CHOICE, safe, R171 does not name it, and its cycle is the occurrence `restart` (assumption
log 19). -/
def label : Instr → Option Label
  | .reset => none
  | .on => some .on
  | .waitHold => none
  | .waitCount => none
  | .waitEnd => some .wake
  | .off => some .off
  | .adv => some .adv
  | .flip => some .edge
  | .drop => some .edge
  | .dbCount => none
  | .rearm => some .fire
  | .dirHold _ => none
  | .faster => some (.byte 0x2B#8)
  | .slower => some (.byte 0x2D#8)
  | .invalid b => some (.byte b)
  | .stClear => none

/-- The labels of one cycle, in the order the table lists the operations: the scheduler's, `edge`,
`fire`, `byte`. -/
def labels (s : State) (w : In12) : List Label := (select s w).filterMap label

/-- What one cycle is in the event-level system: with `rst = 1` a new start (assumption log 19), else
its tick, if it has one, and then its labels (assumption log 16). -/
def cycleEvents (s : State) (w : In12) : List Occurrence :=
  if w.rst then [.restart]
  else (if w.tick then [.tick] else []) ++ (labels s w).map .label

/-- The loop's position agrees with `phase`, and in the wait `wait_cnt` is what is left of the sampled
period. -/
def LoopPos.agrees (s : State) : LoopPos → Prop
  | .light => s.phase = .on
  | .waiting sampled elapsed => s.phase = .wait ∧ sampled = (s.waitCnt.toNat : Int) + elapsed
  | .extinguish => s.phase = .off
  | .advance => s.phase = .adv

/-- No timer is in flight while armed, and in the cooldown `db_cnt` is what is left of
`DEBOUNCE_MS`. -/
def timerAgrees (s : State) : Option Nat → Prop
  | none => s.armed = true
  | some elapsed => s.armed = false ∧ s.dbCnt + elapsed = s.cfg.debounceMs

/-- A state of the event-level system and a state of the hardware correspond: the shared data are
equal, the two counters are what is left of the two timed conditions, and a report that is shown is
the last one made. -/
structure Corresponds (e : EventState) (s : State) : Prop where
  index : e.index = s.index
  direction : e.direction = s.direction
  period : e.period = periodInt s
  armed : e.armed = s.armed
  ring : e.ring = s.led
  position : e.position.agrees s
  timer : timerAgrees s e.timer
  report : s.stCode ≠ .none → e.reports.getLast? = some s.stCode

end Sys2Proof.Machine
end

