-- ==== Sys2Proof/Machine/Ports.lean ====
section
/-!
DEFINITION. The output ports. Every output is a function of the start-of-cycle registers alone
(30_encoding.md R76, 00_scope.md R16).
-/

namespace Sys2Proof.Machine

/-- Port `led`: the level of each position, position 0 first (30_encoding.md R76, 00_scope.md R10). -/
def ledPort (s : State) : List Bool := (List.range s.cfg.n).map s.led.level

/-- Port `edge_en`: the edge-event source is to detect edges (30_encoding.md R76, 42_direction.md
R118). -/
def edgeEn (s : State) : Bool := s.armed

/-- Port `st_valid`: a status report is present this cycle (30_encoding.md R76). -/
def stValid (s : State) : Bool := decide (s.stCode ≠ .none)

/-- Port `st_code` (30_encoding.md R76, R77). -/
def stCodePort (s : State) : BitVec 2 := s.stCode.code

/-- Port `period_o` (30_encoding.md R76). -/
def periodO (s : State) : Word := s.period

/-- The five output ports of one cycle. -/
structure Ports where
  led : List Bool
  edgeEn : Bool
  stValid : Bool
  stCode : BitVec 2
  periodO : Word
deriving DecidableEq, Repr

/-- The outputs shown in a cycle that starts in state `s`. -/
def ports (s : State) : Ports where
  led := ledPort s
  edgeEn := edgeEn s
  stValid := stValid s
  stCode := stCodePort s
  periodO := periodO s

/-- What the line driver is told: the level of each physical line, position `i` being line
`RING_IDS[i]` (20_memory.md R56, 60_exceptions.md R191). -/
def lineLevels (s : State) : List (Nat × Bool) := s.cfg.ringIds.zip (ledPort s)

end Sys2Proof.Machine
end

