-- ==== Sys2Proof/Machine/Script.lean ====
section
/-!
DEFINITION. The stimulus notation of 30_encoding.md R81 and R82: what the environment does, as a list
of input words.
-/

namespace Sys2Proof.Machine

/-- An item of a word (30_encoding.md R81). -/
inductive Item where
  | idle
  | rst
  | tick
  | edge
  | byte (b : Byte)
deriving DecidableEq, Repr

/-- `IDLE = 0x000`, `RST = 0x800`, `TICK = 0x400`, `EDGE = 0x200`, `BYTE b = 0x100 + b`. -/
def Item.word : Item → In12
  | .idle => 0x000
  | .rst => 0x800
  | .tick => 0x400
  | .edge => 0x200
  | .byte b => 0x100 + b.setWidth 12

/-- Whether an item is a `BYTE`. -/
def Item.isByte : Item → Bool
  | .idle => false
  | .rst => false
  | .tick => false
  | .edge => false
  | .byte _ => true

/-- A word's encoding: the bitwise OR of its items. -/
def wordOf (items : List Item) : In12 := items.foldr (fun i w => i.word ||| w) 0

/-- "A word has at most one `BYTE` item", and it has at least one item. -/
def wordWf (items : List Item) : Bool := !items.isEmpty && decide (items.countP Item.isByte ≤ 1)

/-- A line of a script: a repeated word, or one of the pseudo-items of 30_encoding.md R82. -/
inductive Line where
  /-- `count * word`. -/
  | words (count : Nat) (items : List Item)
  /-- `RESET`. -/
  | reset
  /-- `PRESS`. -/
  | press
  /-- `FASTER`. -/
  | faster
  /-- `SLOWER`. -/
  | slower
  /-- `MS k`. -/
  | ms (k : Nat)
  /-- `MS k, g`. -/
  | msGap (k g : Nat)
deriving DecidableEq, Repr

/-- A line's input words (30_encoding.md R81, R82). -/
def Line.expand : Line → List In12
  | .words count items => List.replicate count (wordOf items)
  | .reset => [Item.rst.word]
  | .press => [Item.edge.word]
  | .faster => [(Item.byte 0x2B).word]
  | .slower => [(Item.byte 0x2D).word]
  | .ms k => List.replicate k Item.tick.word
  | .msGap k g => (List.replicate k (Item.tick.word :: List.replicate g Item.idle.word)).flatten

/-- A script's input words, first line first. -/
def scriptWords (lines : List Line) : List In12 := (lines.map Line.expand).flatten

end Sys2Proof.Machine
end

