-- ==== Sys2Proof/Safety.lean ====
section
/-!
DEFINITION. The terms in which safe behaviour is stated: the invariants of 10_state.md, reachability,
and runs under given input words.
-/

namespace Sys2Proof.Machine

/-- The invariants of every reachable state (10_state.md R36 to R39), for a configuration that meets
00_scope.md R8. -/
abbrev Inv (s : State) : Prop :=
  s.cfg.legal ∧
  s.index < s.cfg.n ∧
  (s.cfg.minPeriod ≤ periodInt s ∧ periodInt s ≤ s.cfg.maxPeriod) ∧
  ((s.armed = true ↔ s.dbCnt = 0) ∧ s.dbCnt ≤ s.cfg.debounceMs) ∧
  (s.phase = .on → s.led = [] ∧ s.waitCnt = 0) ∧
  (s.phase = .wait →
    s.led = Memory.onehot s.index ∧ 1 ≤ s.waitCnt.toNat ∧ (s.waitCnt.toNat : Int) ≤ s.cfg.maxPeriod) ∧
  (s.phase = .off → s.led = Memory.onehot s.index ∧ s.waitCnt = 0) ∧
  (s.phase = .adv → s.led = [] ∧ s.waitCnt = 0)

/-- The settled states, in which exactly one line is ON (10_state.md R40, 90_conflicts.md C2). -/
abbrev Settled (s : State) : Prop := s.phase = .wait ∨ s.phase = .off

/-- A reachable state (10_state.md section 6): the reset state of a legal configuration, or the result
of a cycle from a reachable state; the environment may present any words. -/
inductive Reachable : State → Prop where
  | reset (c : Config) (h : c.legal) : Reachable (State.resetWith c)
  | environment (s : State) (ws : List In12) (h : Reachable s) : Reachable { s with script := ws }
  | cycle (s t : State) (h : Reachable s) (hs : step s = .next t) : Reachable t

/-- The machine's run over input words, `s_(k+1) = cycle(s_k, in_k)` (45_cycle.md R161): one step for
each word, the environment presenting it. -/
def runWords (s : State) : List In12 → Host.Outcome State Fault Refusal
  | [] => .next s
  | w :: ws =>
    match step { s with script := [w] } with
    | .next t => runWords t ws
    | .fault f => .fault f
    | .refused r => .refused r

/-- The operations a run performs, cycle by cycle. -/
def runOps (s : State) : List In12 → List Instr
  | [] => []
  | w :: ws =>
    match step { s with script := [w] } with
    | .next t => select s w ++ runOps t ws
    | .fault _ => select s w
    | .refused _ => []

/-- What a run is in the event-level system (45_cycle.md R171): its cycles, one after another. -/
def runEvents (s : State) : List In12 → List Occurrence
  | [] => []
  | w :: ws =>
    match step { s with script := [w] } with
    | .next t => cycleEvents s w ++ runEvents t ws
    | .fault _ => cycleEvents s w
    | .refused _ => []

/-- No word of a run resets the block. -/
abbrev ResetFree (ws : List In12) : Prop := ∀ w ∈ ws, In12.rst w = false

/-- The number of ticks among input words. -/
def ticks (ws : List In12) : Nat := ws.countP In12.tick

/-- The next phase of the loop ON, wait, OFF, ADV, ON, ... (44_scheduler.md R140). -/
def phaseAfter : Phase → Phase
  | .on => .wait
  | .wait => .off
  | .off => .adv
  | .adv => .on

/-- The operations of one slice among those of a cycle. -/
def ofSlice (c : Slice) (is : List Instr) : List Instr := is.filter (fun i => i.slice = c)

/-- When a cycle performs an operation (30_encoding.md R75, one line of its table): the columns match,
mask, "in words" and counter guard. -/
abbrev SelectedBy (i : Instr) (s : State) (w : In12) (matchBits mask : Sel15) (inWords guard : Prop) :
    Prop :=
  (i ∈ select s w ↔ selWord s.armed s.phase w &&& mask = matchBits ∧ guard) ∧
  (selWord s.armed s.phase w &&& mask = matchBits ↔ inWords)

/-- The registers the scheduler slice writes (45_cycle.md R163). -/
def schedulerRegs (s : State) : Phase × Word × Nat × Memory := (s.phase, s.waitCnt, s.index, s.led)

/-- The registers the direction slice writes (45_cycle.md R163). -/
def directionRegs (s : State) : Direction × Bool × Nat := (s.direction, s.armed, s.dbCnt)

/-- The registers the speed slice writes (45_cycle.md R163). -/
def speedRegs (s : State) : Word × StCode := (s.period, s.stCode)

/-! ## The source's testable properties (45_cycle.md R172), one definition for each row -/

/-- "cyclic index sequence, FORWARD and BACKWARD, period N" (41_cursor.md R104), of the machine: in a
run that performs no FLIP and no RESET the cursor has walked as many positions as ADVs were performed,
modulo `N`. -/
def CyclicIndexSequence : Prop :=
  ∀ (s : State) (ws : List In12), Inv s → ResetFree ws → .flip ∉ runOps s ws →
    ∃ t, runWords s ws = .next t ∧ t.direction = s.direction ∧
      (s.direction = .forward → t.index = (s.index + (runOps s ws).count .adv) % s.cfg.n) ∧
      (s.direction = .backward →
        (t.index : Int) = ((s.index : Int) - (runOps s ws).count .adv) % s.cfg.n)

/-- "exactly one ring position ON between advances (settled instants)" (10_state.md R40). -/
def OneLineOnWhenSettled : Prop :=
  ∀ s : State, Reachable s → Settled s → ∀ a, s.led.level a = true ↔ a = s.index

/-- "ARMED plus one edge: one flip, COOLDOWN, further edges flip nothing" (42_direction.md R117 (a)). -/
def OneFlipPerPress : Prop :=
  ∀ (s : State) (w : In12) (ws : List In12), s.cfg.legal → s.armed = true →
    w.rst = false → w.edgeEvt = true → ResetFree ws → ticks ws < s.cfg.debounceMs →
    ∃ t, runWords s (w :: ws) = .next t ∧ t.direction = flipped s.direction ∧ t.armed = false ∧
      (runOps s (w :: ws)).count .flip = 1

/-- "after the timer fires: ARMED, next edge flips once more" (42_direction.md R117 (b)). -/
def RearmedEdgeFlipsOnce : Prop :=
  ∀ (s : State) (w w' : In12) (ws : List In12), s.cfg.legal → .rearm ∈ select s w →
    (∀ v ∈ ws, In12.rst v = false ∧ In12.edgeEvt v = false) → w'.rst = false → w'.edgeEvt = true →
    (∃ t, runWords s (w :: ws) = .next t ∧ t.armed = true ∧ t.direction = s.direction) ∧
    ∃ t, runWords s (w :: (ws ++ [w'])) = .next t ∧ t.direction = flipped s.direction ∧
      t.armed = false ∧ (runOps s (w :: (ws ++ [w']))).count .flip = 1

/-- The words of a run that holds one byte in every cycle, and no reset. -/
abbrev AllBytes (b : Byte) (ws : List In12) : Prop :=
  ∀ w ∈ ws, In12.rst w = false ∧ In12.rxValid w = true ∧ In12.rxData w = b

/-- "`period` stays within bounds; `+` at `MIN_PERIOD` leaves it" (43_speed.md R132 (a)). -/
def PeriodStaysInBounds : Prop :=
  (∀ s : State, Reachable s →
    s.cfg.minPeriod ≤ s.period.toInt ∧ s.period.toInt ≤ s.cfg.maxPeriod) ∧
  ∀ (s : State) (ws : List In12), s.cfg.legal → s.period.toInt = s.cfg.minPeriod →
    AllBytes 0x2B ws → ∃ t, runWords s ws = .next t ∧ t.period.toInt = s.cfg.minPeriod

/-- A configuration with CFG-REF's five values (00_scope.md R7); `DEBOUNCE_MS` and `RING_IDS` stay
open. -/
abbrev IsReference (c : Config) : Prop :=
  c.n = 9 ∧ c.minPeriod = 50 ∧ c.maxPeriod = 60000 ∧ c.step = 50 ∧ c.initPeriod = 500

/-- The script of vector S3 up to its `k`-th group: `IDLE`, the mirror run's `EDGE` if `mirror`, and
`k` times `MS 500` and `3 * IDLE`. -/
def lapWords (mirror : Bool) (k : Nat) : List In12 :=
  scriptWords (.words 1 [.idle] :: ((if mirror then [.words 1 [.edge]] else []) ++
    (List.replicate k [.ms 500, .words 3 [.idle]]).flatten))

/-- "the N=9 scenario" (95_test_vectors.md S1 to S3): ten `+` from 500 give 450, 400, ..., 50, 50 with
their reports, `-` then gives 100; and the runs of S3, whose `k`-th advance gives `k mod 9`, mirrored
`-k mod 9`, so that after nine advances the cursor is at 0 again. -/
def NineScenario : Prop :=
  ∀ c : Config, c.legal → IsReference c →
    (∀ ws, AllBytes 0x2B ws → 1 ≤ ws.length → ws.length ≤ 10 →
      ∃ t, runWords (State.resetWith c) ws = .next t ∧
        t.period.toInt = max 50 (500 - 50 * (ws.length : Int)) ∧
        t.stCode = if ws.length ≤ 8 then .changed else .limit) ∧
    (∀ ws w, AllBytes 0x2B ws → ws.length = 10 → AllBytes 0x2D [w] →
      ∃ t, runWords (State.resetWith c) (ws ++ [w]) = .next t ∧ t.period.toInt = 100 ∧
        t.stCode = .changed) ∧
    ∀ (mirror : Bool) (k : Nat),
      ∃ t, runWords (State.resetWith c) (lapWords mirror k) = .next t ∧
        (runOps (State.resetWith c) (lapWords mirror k)).count .adv = k ∧
        (t.index : Int) = (if mirror then -(k : Int) else k) % 9 ∧
        t.direction = (if mirror then .backward else .forward) ∧ t.phase = .wait ∧
        t.period.toInt = 500 ∧ t.waitCnt.toNat = 500 ∧ ∀ a, t.led.level a = decide (a = t.index)

/-- "an invalid byte changes neither `period` nor `direction`; one report" (43_speed.md R132 (b)): the
direction is as without the byte, and a next cycle without a byte shows no report. -/
def InvalidByteIsReportedOnce : Prop :=
  ∀ (s : State) (w w' : In12), s.cfg.legal → w.rst = false → w.rxValid = true →
    w.rxData ≠ 0x2B#8 → w.rxData ≠ 0x2D#8 → w'.rst = false → w'.rxValid = false →
    ∃ t u, runWords s [w] = .next t ∧ t.period = s.period ∧ t.stCode = .invalid ∧
      (s.armed = false ∨ w.edgeEvt = false → t.direction = s.direction) ∧
      runWords s [w, w'] = .next u ∧ u.period = s.period ∧ u.stCode = .none

end Sys2Proof.Machine
end

