-- ==== Sys2Proof/Certificates/Slice0/Obligations.lean ====
section
/-!
DEFINITION. The statements for the provers. Rules are cited by number; each docstring says what the
statement formalises. The spec marks R36 to R41, R72, R73, R103 to R105, R116, R117, R130, R151, R152,
R162, R164, R165, R170, R171 and R216 as its own inferences (its words: "derived: from ..."); the
statements about them have basis "derived".
-/

open Sys2Proof Sys2Proof.Machine

/-! ## Encoding and selection -/

/-- Decode and encode agree: every selection word of a well-formed operation, its row's free bits at
any value, decodes to that operation; and every operation a word decodes to is well-formed and its
encoding with the word's own free bits is the word (30_encoding.md R75). -/
def Obligations.DecodeEncodeAgree : Prop :=
  (∀ (i : Instr) (fill : Sel15), i.wf = true → i ∈ decode (encode i fill)) ∧
  (∀ (sw : Sel15), ∀ i ∈ decode sw, i.wf = true ∧ encode i sw = sw)

/-- An operation is performed in a cycle exactly when `sel AND mask = match` and its counter guard
holds (30_encoding.md R75). -/
def Obligations.PerformedIffRowMatches : Prop :=
  ∀ (s : State) (w : In12) (i : Instr),
    i ∈ select s w ↔
      i.wf = true ∧ selWord s.armed s.phase w &&& i.mask = i.matchBits ∧
        (i = .waitCount → 2 ≤ s.waitCnt.toNat) ∧ (i = .waitEnd → s.waitCnt.toNat ≤ 1) ∧
        (i = .dbCount → 2 ≤ s.dbCnt) ∧ (i = .rearm → s.dbCnt ≤ 1)

/-- The reading rules (1) to (3) of 30_encoding.md R75: RESET alone, or exactly one scheduler, one
speed and one direction operation other than DROP, and DROP exactly on an edge during the cooldown. -/
def Obligations.OneOperationPerSlice : Prop :=
  ∀ (s : State) (w : In12),
    (w.rst = true → select s w = [.reset]) ∧
    (w.rst = false →
      .reset ∉ select s w ∧
      (ofSlice .scheduler (select s w)).length = 1 ∧
      (ofSlice .speed (select s w)).length = 1 ∧
      ((ofSlice .direction (select s w)).filter (fun i => i ≠ .drop)).length = 1 ∧
      (.drop ∈ select s w ↔ s.armed = false ∧ w.edgeEvt = true))

/-- The speed operation of a word is that of its byte, `0x2B` FASTER, `0x2D` SLOWER, any other
INVALID with that byte, and ST_CLEAR without a byte, whatever the other bits are (30_encoding.md R71,
R72, R75). -/
def Obligations.SpeedOperationIsCommand : Prop :=
  ∀ (a : Bool) (p : Phase) (w : In12), w.rst = false →
    ofSlice .speed (decode (selWord a p w)) =
      [if w.rxValid then
        if w.rxData = 0x2B#8 then .faster else if w.rxData = 0x2D#8 then .slower
        else .invalid w.rxData
      else .stClear]

/-- The eight INVALID rows accept each byte other than `0x2B` and `0x2D` exactly once, and those two
never (30_encoding.md R73). -/
def Obligations.InvalidRowsPartitionBytes : Prop :=
  ∀ b : Byte,
    ((speedRows.drop 2).take 8).countP
      (fun r => b &&& r.mask.extractLsb' 0 8 == r.matchBits.extractLsb' 0 8) =
    if b = 0x2B#8 ∨ b = 0x2D#8 then 0 else 1

/-- The fields of an input word and the word of its fields are inverse (30_encoding.md R74). -/
def Obligations.InputWordRoundTrip : Prop :=
  (∀ f : InFields, f.word.fields = f) ∧ (∀ w : In12, w.fields.word = w)

/-- A selection word's `armed`, `phase` and input parts are what it was made of, and every selection
word is made of its parts (30_encoding.md R70, R75, R77). -/
def Obligations.SelectionWordRoundTrip : Prop :=
  (∀ (a : Bool) (p : Phase) (w : In12),
    (selWord a p w).armed = a ∧ (selWord a p w).phase = p ∧ (selWord a p w).input = w) ∧
  (∀ sw : Sel15, selWord sw.armed sw.phase sw.input = sw)

/-- The words of the table V-SEL (95_test_vectors.md) decode to the operations it lists. -/
def Obligations.SampleWordsDecode : Prop :=
  decode 0x572B#15 = [.waitCount, .waitEnd, .flip, .faster] ∧
  decode 0x3600#15 = [.adv, .drop, .dbCount, .rearm, .stClear] ∧
  decode 0x4800#15 = [.reset] ∧
  decode 0x21FF#15 = [.off, .dirHold .cooldown, .invalid 0xFF#8] ∧
  decode 0x5000#15 = [.waitHold, .dirHold .armed, .stClear] ∧
  decode 0x502B#15 = [.waitHold, .dirHold .armed, .stClear] ∧
  decode 0x012D#15 = [.on, .dirHold .cooldown, .slower]

/-! ## The step -/

/-- A step performs, in the table's order, the operations that the cycle's selection word decodes to
and whose counter guard holds, and then goes on to the environment's next word. -/
def Obligations.StepRunsDecodedOperations : Prop :=
  ∀ s t : State, s.cfg.legal →
    execAll ((decode (selWord s.armed s.phase s.inputWord)).filter (counterGuard s)) s = .next t →
    step s = .next { t with script := t.script.tail, cycleNo := t.cycleNo + 1 }

/-- A selection word placed where the next cycle reads it is the word that cycle decodes: the step
performs what the word decodes to. -/
def Obligations.PlacedWordIsRun : Prop :=
  ∀ (s t : State) (sw : Sel15), s.cfg.legal →
    execAll ((decode sw).filter (counterGuard s)) (placeWord s sw) = .next t →
    step (placeWord s sw) = .next t.endCycle

/-- The table-driven step is the clock-cycle function of 45_cycle.md R161: performing the selected
operations one after another gives what the three slices give on the start-of-cycle registers, in
every state, reachable or not (R163, R165, R171). -/
def Obligations.StepIsCycleFunction : Prop :=
  ∀ s : State, s.cfg.legal → step s = .next (cycle s s.inputWord).endCycle

/-- Every state of a legal configuration has a next state under every input word; a configuration
that breaks 00_scope.md R8 is refused (45_cycle.md R162, 60_exceptions.md R178). -/
def Obligations.StepIsTotal : Prop :=
  (∀ (s : State) (w : In12), s.cfg.legal → ∃ t, step { s with script := [w] } = .next t) ∧
  (∀ s : State, ¬ s.cfg.legal → step s = .refused .illegalConfiguration)

/-- No step changes the build-time parameters, and a step consumes one word of the script
(10_state.md R32, 00_scope.md R6; the script and the cycle number are the model's own, assumption
log 3). -/
def Obligations.ParametersNeverChange : Prop :=
  ∀ s t : State, step s = .next t →
    t.cfg = s.cfg ∧ t.script = s.script.tail ∧ t.cycleNo = s.cycleNo + 1

/-- The ring's canonical form and its address space `0 .. N-1` (20_memory.md R50) are kept by every
step. The canonical form is the MODEL's representation (assumption log 13); that it is kept with a
cursor outside the ring too is the MODEL's reading of U6 (assumption log 4). -/
def Obligations.RingStaysCanonical : Prop :=
  ∀ s t : State, s.led.wf → (∀ c ∈ s.led, c.1 < s.cfg.n) → step s = .next t →
    t.led.wf ∧ ∀ c ∈ t.led, c.1 < t.cfg.n

/-! ## Invariants -/

/-- The invariants hold in the reset state of every legal configuration. -/
def Obligations.InvariantAtReset : Prop :=
  ∀ c : Config, c.legal → Inv (State.resetWith c)

/-- Every step keeps the invariants, whatever the environment presents (10_state.md section 6). -/
def Obligations.InvariantKept : Prop :=
  ∀ s t : State, Inv s → step s = .next t → Inv t

/-- `0 <= index <= N-1` in every reachable state (10_state.md R36). -/
def Obligations.IndexInRange : Prop :=
  ∀ s : State, Reachable s → s.index ≤ s.cfg.n - 1 ∧ s.index < s.cfg.n

/-- `MIN_PERIOD <= period <= MAX_PERIOD` in every reachable state (10_state.md R37). -/
def Obligations.PeriodInBounds : Prop :=
  ∀ s : State, Reachable s →
    s.cfg.minPeriod ≤ s.period.toInt ∧ s.period.toInt ≤ s.cfg.maxPeriod

/-- `armed = 1` exactly when `db_cnt = 0`, and `1 <= db_cnt <= DEBOUNCE_MS` when `armed = 0`, in
every reachable state (10_state.md R38). -/
def Obligations.GuardMatchesTimer : Prop :=
  ∀ s : State, Reachable s →
    (s.armed = true ↔ s.dbCnt = 0) ∧
    (s.armed = false → 1 ≤ s.dbCnt ∧ s.dbCnt ≤ s.cfg.debounceMs)

/-- `phase`, `led` and `wait_cnt` move together in every reachable state (10_state.md R39). -/
def Obligations.PhaseRingAndWaitAgree : Prop :=
  ∀ s : State, Reachable s →
    (s.phase = .on → (∀ a, s.led.level a = false) ∧ s.waitCnt.toNat = 0) ∧
    (s.phase = .wait → (∀ a, s.led.level a = decide (a = s.index)) ∧
      1 ≤ s.waitCnt.toNat ∧ (s.waitCnt.toNat : Int) ≤ s.cfg.maxPeriod) ∧
    (s.phase = .off → (∀ a, s.led.level a = decide (a = s.index)) ∧ s.waitCnt.toNat = 0) ∧
    (s.phase = .adv → (∀ a, s.led.level a = false) ∧ s.waitCnt.toNat = 0)

/-- Never two lines ON; the one that is ON is the cursor's; exactly one in the settled states and none
in the transient ones (10_state.md R40). -/
def Obligations.NeverTwoLinesLit : Prop :=
  ∀ s : State, Reachable s →
    (∀ a, s.led.level a = true → a = s.index) ∧
    ((∃ a < s.cfg.n, s.led.level a = true) ↔ Settled s) ∧
    (s.phase = .on ∨ s.phase = .adv → ∀ a, s.led.level a = false)

/-- A state shows a report exactly when the cycle that produced it handled a byte (10_state.md
R41). -/
def Obligations.ReportIffByteHandled : Prop :=
  ∀ s t : State, step s = .next t →
    (t.stCode ≠ .none ↔ s.inputWord.rst = false ∧ s.inputWord.rxValid = true)

/-- The registers held as numbers fit the widths of 00_scope.md R9 in every state that meets the
invariants. -/
def Obligations.RegistersFitTheirWidths : Prop :=
  ∀ s : State, Inv s →
    s.index < 2 ^ s.cfg.indexWidth ∧ s.dbCnt < 2 ^ s.cfg.debounceWidth ∧
    s.cfg.n ≤ 2 ^ s.cfg.indexWidth ∧ s.cfg.debounceMs < 2 ^ s.cfg.debounceWidth

/-- The integers of the speed rules fit `PW` signed bits: two's-complement arithmetic computes the
same sums and differences (00_scope.md R13, 43_speed.md R131). -/
def Obligations.PwBitArithmeticIsExact : Prop :=
  ∀ s : State, Inv s →
    (s.period - BitVec.ofInt 32 s.cfg.step).toInt = s.period.toInt - s.cfg.step ∧
    (s.period + BitVec.ofInt 32 s.cfg.step).toInt = s.period.toInt + s.cfg.step

/-! ## The operations -/

/-- RESET is performed in every cycle with `rst = 1`, alone, and answers the state with every register
at its reset value and nothing else changed (45_cycle.md R160). -/
def Obligations.ResetEffect : Prop :=
  ∀ (s : State) (w : In12), s.cfg.legal →
    SelectedBy .reset s w 0x0800 0x0800 (w.rst = true) True ∧
    (w.rst = true → select s w = [.reset]) ∧
    ∃ t, exec .reset s = .next t ∧ t.period.toInt = s.cfg.initPeriod ∧
      (∀ a, t.led.level a = false) ∧
      t = { s with
        index := 0, direction := .forward, period := t.period, armed := true, dbCnt := 0, led := [],
        phase := .on, waitCnt := 0, stCode := .none }

/-- ON is performed in every cycle of phase `PH_ON` and answers the state with the line at `index` ON and every other line as before, the wait loaded
with the period, `phase = PH_WAIT`, and nothing else changed (44_scheduler.md R142, 40_ring.md
R90). -/
def Obligations.OnEffect : Prop :=
  ∀ (s : State) (w : In12), s.index < s.cfg.n →
    SelectedBy .on s w 0x0000 0x3800 (w.rst = false ∧ s.phase = .on) True ∧
    ∃ t, exec .on s = .next t ∧
      t.led.level s.index = true ∧ (∀ a, a ≠ s.index → t.led.level a = s.led.level a) ∧
      t = { s with led := t.led, waitCnt := s.period, phase := .wait }

/-- OFF is performed in every cycle of phase `PH_OFF` and answers the state with the line at `index` OFF and every other line as before,
`phase = PH_ADV`, and nothing else changed (44_scheduler.md R148, 40_ring.md R91). -/
def Obligations.OffEffect : Prop :=
  ∀ (s : State) (w : In12), s.index < s.cfg.n →
    SelectedBy .off s w 0x2000 0x3800 (w.rst = false ∧ s.phase = .off) True ∧
    ∃ t, exec .off s = .next t ∧
      t.led.level s.index = false ∧ (∀ a, a ≠ s.index → t.led.level a = s.led.level a) ∧
      t = { s with led := t.led, phase := .adv }

/-- WAIT_HOLD, DROP and DIR_HOLD in both forms: when a cycle performs them, and that they answer the
same state (44_scheduler.md R145, 42_direction.md R111, R115). -/
def Obligations.HoldingOperationsWriteNothing : Prop :=
  ∀ (s : State) (w : In12),
    SelectedBy .waitHold s w 0x1000 0x3C00 (w.rst = false ∧ s.phase = .wait ∧ w.tick = false) True ∧
    SelectedBy .drop s w 0x0200 0x4A00 (w.rst = false ∧ s.armed = false ∧ w.edgeEvt = true) True ∧
    SelectedBy (.dirHold .armed) s w 0x4000 0x4A00
      (w.rst = false ∧ s.armed = true ∧ w.edgeEvt = false) True ∧
    SelectedBy (.dirHold .cooldown) s w 0x0000 0x4C00
      (w.rst = false ∧ s.armed = false ∧ w.tick = false) True ∧
    exec .waitHold s = .next s ∧ exec .drop s = .next s ∧
    exec (.dirHold .armed) s = .next s ∧ exec (.dirHold .cooldown) s = .next s

/-- WAIT_COUNT takes one from `wait_cnt`; WAIT_END clears it and goes to `PH_OFF`; nothing else
changes; and when a cycle performs each (44_scheduler.md R146, R147). -/
def Obligations.WaitCountAndWaitEndEffect : Prop :=
  ∀ (s : State) (w : In12),
    SelectedBy .waitCount s w 0x1400 0x3C00 (w.rst = false ∧ s.phase = .wait ∧ w.tick = true)
      (2 ≤ s.waitCnt.toNat) ∧
    SelectedBy .waitEnd s w 0x1400 0x3C00 (w.rst = false ∧ s.phase = .wait ∧ w.tick = true)
      (s.waitCnt.toNat ≤ 1) ∧
    (2 ≤ s.waitCnt.toNat →
      ∃ t, exec .waitCount s = .next t ∧ t.waitCnt.toNat = s.waitCnt.toNat - 1 ∧
        1 ≤ t.waitCnt.toNat ∧ t = { s with waitCnt := t.waitCnt }) ∧
    exec .waitEnd s = .next { s with waitCnt := 0, phase := .off }

/-- ADV is performed in every cycle of phase `PH_ADV` and answers the state with `index` replaced by `next(index, direction)`, again in the ring,
`phase = PH_ON`, and nothing else changed (41_cursor.md R101). That the result is again in the ring is
the inference that 41_cursor.md R100 marks as its own ("derived: from the four cases"). -/
def Obligations.AdvEffect : Prop :=
  ∀ (s : State) (w : In12), s.index < s.cfg.n →
    SelectedBy .adv s w 0x3000 0x3800 (w.rst = false ∧ s.phase = .adv) True ∧
    exec .adv s = .next { s with index := next s.cfg.n s.index s.direction, phase := .on } ∧
    next s.cfg.n s.index s.direction < s.cfg.n

/-- FLIP is performed on an edge while `armed = 1`; it inverts the direction, clears `armed` and loads `db_cnt` with `DEBOUNCE_MS`, and changes
nothing else, neither `index` nor `led` (42_direction.md R110). -/
def Obligations.FlipEffect : Prop :=
  ∀ (s : State) (w : In12),
    SelectedBy .flip s w 0x4200 0x4A00 (w.rst = false ∧ s.armed = true ∧ w.edgeEvt = true) True ∧
    exec .flip s = .next { s with
      direction := if s.direction = .forward then .backward else .forward, armed := false,
      dbCnt := s.cfg.debounceMs }

/-- DB_COUNT takes one from `db_cnt`; REARM clears it and sets `armed`; nothing else changes; and when
a cycle performs each (42_direction.md R113, R114). -/
def Obligations.DbCountAndRearmEffect : Prop :=
  ∀ (s : State) (w : In12),
    SelectedBy .dbCount s w 0x0400 0x4C00 (w.rst = false ∧ s.armed = false ∧ w.tick = true)
      (2 ≤ s.dbCnt) ∧
    SelectedBy .rearm s w 0x0400 0x4C00 (w.rst = false ∧ s.armed = false ∧ w.tick = true)
      (s.dbCnt ≤ 1) ∧
    exec .dbCount s = .next { s with dbCnt := s.dbCnt - 1 } ∧ (2 ≤ s.dbCnt → 1 ≤ s.dbCnt - 1) ∧
    exec .rearm s = .next { s with dbCnt := 0, armed := true }

/-- FASTER is performed on the byte `0x2B` and answers the state with `period' = max(MIN_PERIOD, period - STEP)`, the report
`ST_CHANGED` when the full step stays above `MIN_PERIOD` and `ST_LIMIT` otherwise, and nothing else
changed (43_speed.md R126). -/
def Obligations.FasterEffect : Prop :=
  ∀ (s : State) (w : In12), s.cfg.legal →
    SelectedBy .faster s w 0x012B 0x09FF
      (w.rst = false ∧ w.rxValid = true ∧ w.rxData = 0x2B#8) True ∧
    ∃ t, exec .faster s = .next t ∧
      t.period.toInt = max s.cfg.minPeriod (s.period.toInt - s.cfg.step) ∧
      t.stCode = (if s.period.toInt - s.cfg.step > s.cfg.minPeriod then .changed else .limit) ∧
      t = { s with period := t.period, stCode := t.stCode }

/-- SLOWER is performed on the byte `0x2D` and answers the state with `period' = min(MAX_PERIOD, period + STEP)`, the report
`ST_CHANGED` when the full step stays below `MAX_PERIOD` and `ST_LIMIT` otherwise, and nothing else
changed (43_speed.md R127). -/
def Obligations.SlowerEffect : Prop :=
  ∀ (s : State) (w : In12), s.cfg.legal →
    SelectedBy .slower s w 0x012D 0x09FF
      (w.rst = false ∧ w.rxValid = true ∧ w.rxData = 0x2D#8) True ∧
    ∃ t, exec .slower s = .next t ∧
      t.period.toInt = min s.cfg.maxPeriod (s.period.toInt + s.cfg.step) ∧
      t.stCode = (if s.period.toInt + s.cfg.step < s.cfg.maxPeriod then .changed else .limit) ∧
      t = { s with period := t.period, stCode := t.stCode }

/-- INVALID, whatever its byte, writes `st_code = ST_INVALID` and nothing else; ST_CLEAR writes
`ST_NONE` and nothing else; and when a cycle performs each (43_speed.md R128, R129). -/
def Obligations.InvalidAndStClearEffect : Prop :=
  ∀ (s : State) (w : In12),
    (∀ b : Byte, SelectedBy (.invalid b) s w 0x0100 0x0900 (w.rst = false ∧ w.rxValid = true)
      (w.rxData = b ∧ b ≠ 0x2B#8 ∧ b ≠ 0x2D#8)) ∧
    SelectedBy .stClear s w 0x0000 0x0900 (w.rst = false ∧ w.rxValid = false) True ∧
    (∀ b : Byte, exec (.invalid b) s = .next { s with stCode := .invalid }) ∧
    exec .stClear s = .next { s with stCode := .none }

/-- ON, OFF and ADV run for a cursor outside the ring too (unreachable,
93_implementation_defined.md U6): only the cells of the ring, or the cursor within its width, are
free; every other effect is as the rules say. The MODEL's reading of U6 (assumption log 4). -/
def Obligations.CursorOutsideRingStillRuns : Prop :=
  ∀ s : State, s.cfg.n ≤ s.index →
    (∃ t, exec .on s = .next t ∧ t.led.wf ∧ (∀ c ∈ t.led, c.1 < s.cfg.n) ∧
      t = { s with led := t.led, waitCnt := s.period, phase := .wait }) ∧
    (∃ t, exec .off s = .next t ∧ t.led.wf ∧ (∀ c ∈ t.led, c.1 < s.cfg.n) ∧
      t = { s with led := t.led, phase := .adv }) ∧
    (∃ t, exec .adv s = .next t ∧ t.index < 2 ^ s.cfg.indexWidth ∧
      t = { s with index := t.index, phase := .on })

/-! ## The slices of one cycle -/

/-- The scheduler slice of one cycle without reset: the operation of each phase, the phase it goes to,
and what it does to `wait_cnt`, `index` and the ring (44_scheduler.md R140, R150; 41_cursor.md
R101). -/
def Obligations.SchedulerSliceTable : Prop :=
  ∀ (s : State) (w : In12), s.cfg.legal → s.index < s.cfg.n → w.rst = false →
    ∃ t, step { s with script := [w] } = .next t ∧
      (s.phase = .on →
        ofSlice .scheduler (select s w) = [.on] ∧ t.phase = .wait ∧ t.waitCnt = s.period ∧
        t.index = s.index ∧
        ∀ a, t.led.level a = if a = s.index then true else s.led.level a) ∧
      (s.phase = .wait → w.tick = false →
        ofSlice .scheduler (select s w) = [.waitHold] ∧ schedulerRegs t = schedulerRegs s) ∧
      (s.phase = .wait → w.tick = true → 2 ≤ s.waitCnt.toNat →
        ofSlice .scheduler (select s w) = [.waitCount] ∧
        schedulerRegs t = (.wait, s.waitCnt - 1, s.index, s.led)) ∧
      (s.phase = .wait → w.tick = true → s.waitCnt.toNat ≤ 1 →
        ofSlice .scheduler (select s w) = [.waitEnd] ∧
        schedulerRegs t = (.off, 0, s.index, s.led)) ∧
      (s.phase = .off →
        ofSlice .scheduler (select s w) = [.off] ∧ t.phase = .adv ∧ t.waitCnt = s.waitCnt ∧
        t.index = s.index ∧
        ∀ a, t.led.level a = if a = s.index then false else s.led.level a) ∧
      (s.phase = .adv →
        ofSlice .scheduler (select s w) = [.adv] ∧
        schedulerRegs t = (.on, s.waitCnt, next s.cfg.n s.index s.direction, s.led))

/-- The direction slice of one cycle without reset, row by row (42_direction.md R116): the operations
and the registers after it. -/
def Obligations.DirectionSliceTable : Prop :=
  ∀ (s : State) (w : In12), s.cfg.legal → w.rst = false →
    ∃ t, step { s with script := [w] } = .next t ∧
      (s.armed = true → w.edgeEvt = true →
        ofSlice .direction (select s w) = [.flip] ∧
        directionRegs t =
          (if s.direction = .forward then .backward else .forward, false, s.cfg.debounceMs)) ∧
      (s.armed = true → w.edgeEvt = false →
        ofSlice .direction (select s w) = [.dirHold .armed] ∧
        directionRegs t = directionRegs s) ∧
      (s.armed = false → w.tick = false →
        ofSlice .direction (select s w) =
          (if w.edgeEvt then [.drop, .dirHold .cooldown] else [.dirHold .cooldown]) ∧
        directionRegs t = directionRegs s) ∧
      (s.armed = false → w.tick = true → 2 ≤ s.dbCnt →
        ofSlice .direction (select s w) =
          (if w.edgeEvt then [.drop, .dbCount] else [.dbCount]) ∧
        directionRegs t = (s.direction, false, s.dbCnt - 1)) ∧
      (s.armed = false → w.tick = true → s.dbCnt ≤ 1 →
        ofSlice .direction (select s w) = (if w.edgeEvt then [.drop, .rearm] else [.rearm]) ∧
        directionRegs t = (s.direction, true, 0))

/-- The speed slice of one cycle without reset, row by row (43_speed.md R130): the operation, the
period as an integer, and the report. -/
def Obligations.SpeedSliceTable : Prop :=
  ∀ (s : State) (w : In12), s.cfg.legal → w.rst = false →
    ∃ t, step { s with script := [w] } = .next t ∧
      (w.rxValid = false →
        ofSlice .speed (select s w) = [.stClear] ∧ t.period = s.period ∧ t.stCode = .none) ∧
      (w.rxValid = true → w.rxData = 0x2B#8 →
        ofSlice .speed (select s w) = [.faster] ∧
        (s.period.toInt - s.cfg.step > s.cfg.minPeriod →
          t.period.toInt = s.period.toInt - s.cfg.step ∧ t.stCode = .changed) ∧
        (s.period.toInt - s.cfg.step ≤ s.cfg.minPeriod →
          t.period.toInt = s.cfg.minPeriod ∧ t.stCode = .limit)) ∧
      (w.rxValid = true → w.rxData = 0x2D#8 →
        ofSlice .speed (select s w) = [.slower] ∧
        (s.period.toInt + s.cfg.step < s.cfg.maxPeriod →
          t.period.toInt = s.period.toInt + s.cfg.step ∧ t.stCode = .changed) ∧
        (s.period.toInt + s.cfg.step ≥ s.cfg.maxPeriod →
          t.period.toInt = s.cfg.maxPeriod ∧ t.stCode = .limit)) ∧
      (w.rxValid = true → w.rxData ≠ 0x2B#8 → w.rxData ≠ 0x2D#8 →
        ofSlice .speed (select s w) = [.invalid w.rxData] ∧
        t.period = s.period ∧ t.stCode = .invalid)

/-- After a cycle with `rst = 1` every register has its reset value, whatever it held and whatever
the other inputs were (10_state.md R34). -/
def Obligations.ResetOverridesEverything : Prop :=
  ∀ (s : State) (w : In12), s.cfg.legal → w.rst = true →
    ∃ t, step { s with script := [w] } = .next t ∧
      t.index = 0 ∧ t.direction = .forward ∧ t.period.toInt = s.cfg.initPeriod ∧ t.armed = true ∧
      t.dbCnt = 0 ∧ (∀ a, t.led.level a = false) ∧ t.phase = .on ∧ t.waitCnt = 0 ∧
      t.stCode = .none

/-- START: no line is lit in the reset state; the first cycle after a reset lights position 0 and loads the wait with `INIT_PERIOD`,
whatever byte, edge or tick comes in that cycle (44_scheduler.md R141). -/
def Obligations.StartLightsPositionZero : Prop :=
  ∀ (c : Config) (w : In12), c.legal → w.rst = false →
    (∀ a, (State.resetWith c).led.level a = false) ∧ .on ∈ select (State.resetWith c) w ∧
    ∃ t, step { State.resetWith c with script := [w] } = .next t ∧
      (∀ a, t.led.level a = decide (a = 0)) ∧ (t.waitCnt.toNat : Int) = c.initPeriod ∧
      t.phase = .wait ∧ t.index = 0

/-- The same-cycle cases of 45_cycle.md R164, its eleven rows in order. -/
def Obligations.SameCycleCases : Prop :=
  ∀ (s : State) (w w' : In12), s.cfg.legal → s.index < s.cfg.n → w.rst = false → w'.rst = false →
    -- FLIP and ADV: the old direction, and the new one for the next ADV
    (s.phase = .adv → s.armed = true → w.edgeEvt = true →
      ∃ t, runWords s [w] = .next t ∧
        t.index = next s.cfg.n s.index s.direction ∧ t.direction = flipped s.direction ∧
        ∀ ws, ResetFree ws → .flip ∉ runOps t ws → (runOps t ws).count .adv = 1 →
          ∃ u, runWords t ws = .next u ∧ u.index = next s.cfg.n t.index (flipped s.direction)) ∧
    -- FLIP and OFF: the ADV of the next cycle steps in the new direction
    (s.phase = .off → s.armed = true → w.edgeEvt = true →
      ∃ t, runWords s [w, w'] = .next t ∧
        t.index = next s.cfg.n s.index (flipped s.direction)) ∧
    -- FASTER or SLOWER and ON: the old period is loaded, the next ON loads the new one
    (s.phase = .on → w.rxValid = true → w.rxData = 0x2B#8 ∨ w.rxData = 0x2D#8 →
      ∃ t, runWords s [w] = .next t ∧ t.waitCnt = s.period ∧
        t.period.toInt = (if w.rxData = 0x2B#8 then max s.cfg.minPeriod (s.period.toInt - s.cfg.step)
          else min s.cfg.maxPeriod (s.period.toInt + s.cfg.step)) ∧
        ∀ ws, (∀ v ∈ ws, In12.rst v = false ∧ In12.rxValid v = false) →
          ∃ u, runWords t ws = .next u ∧
            (u.phase = .on → ∃ v, runWords t (ws ++ [w']) = .next v ∧ v.waitCnt = t.period)) ∧
    -- FASTER or SLOWER and WAIT_COUNT or WAIT_END: the running wait is not affected
    (s.phase = .wait → w.tick = true → w.rxValid = true → w.rxData = 0x2B#8 ∨ w.rxData = 0x2D#8 →
      ∃ t, runWords s [w] = .next t ∧
        (2 ≤ s.waitCnt.toNat → t.phase = .wait ∧ t.waitCnt.toNat = s.waitCnt.toNat - 1) ∧
        (s.waitCnt.toNat ≤ 1 → t.phase = .off ∧ t.waitCnt = 0)) ∧
    -- edge and tick while armed: FLIP, the tick not counted against the new cooldown
    (s.armed = true → w.edgeEvt = true → w.tick = true →
      .flip ∈ select s w ∧
      ∃ t, runWords s [w] = .next t ∧ t.direction = flipped s.direction ∧ t.armed = false ∧
        t.dbCnt = s.cfg.debounceMs) ∧
    -- edge and tick in the cooldown's last cycle: the edge dropped, REARM, the next edge accepted
    (s.armed = false → w.edgeEvt = true → w.tick = true → s.dbCnt ≤ 1 →
      .drop ∈ select s w ∧ .rearm ∈ select s w ∧
      ∃ t, runWords s [w] = .next t ∧ t.direction = s.direction ∧ t.armed = true ∧
        (w'.edgeEvt = true →
          ∃ u, runWords s [w, w'] = .next u ∧ u.direction = flipped s.direction ∧
            u.armed = false)) ∧
    -- edge and tick earlier in the cooldown: the edge dropped, DB_COUNT
    (s.armed = false → w.edgeEvt = true → w.tick = true → 2 ≤ s.dbCnt →
      .drop ∈ select s w ∧ .dbCount ∈ select s w ∧
      ∃ t, runWords s [w] = .next t ∧ t.direction = s.direction ∧ t.armed = false ∧
        t.dbCnt = s.dbCnt - 1) ∧
    -- a tick in the wait and the cooldown: counted by both counters
    (s.phase = .wait → s.armed = false → w.tick = true →
      ∃ t, runWords s [w] = .next t ∧
        (2 ≤ s.waitCnt.toNat → t.phase = .wait ∧ t.waitCnt.toNat = s.waitCnt.toNat - 1) ∧
        (s.waitCnt.toNat ≤ 1 → t.phase = .off ∧ t.waitCnt = 0) ∧
        (2 ≤ s.dbCnt → t.armed = false ∧ t.dbCnt = s.dbCnt - 1) ∧
        (s.dbCnt ≤ 1 → t.armed = true ∧ t.dbCnt = 0)) ∧
    -- a tick outside the wait: not counted by the scheduler, still counted by the direction slice
    (s.phase ≠ .wait → w.tick = true →
      ∃ t, runWords s [w] = .next t ∧ t.phase = phaseAfter s.phase ∧
        t.waitCnt = (if s.phase = .on then s.period else s.waitCnt) ∧
        (s.armed = false →
          (2 ≤ s.dbCnt → t.armed = false ∧ t.dbCnt = s.dbCnt - 1) ∧
          (s.dbCnt ≤ 1 → t.armed = true ∧ t.dbCnt = 0))) ∧
    -- edge, tick and byte together: 0x72B is FLIP or DROP, plus FASTER, plus what the tick does
    (.faster ∈ select s 0x72B ∧
      (s.armed = true → .flip ∈ select s 0x72B) ∧ (s.armed = false → .drop ∈ select s 0x72B) ∧
      (s.phase = .wait →
        (if s.waitCnt.toNat ≤ 1 then .waitEnd else .waitCount) ∈ select s 0x72B) ∧
      (s.armed = false → (if s.dbCnt ≤ 1 then .rearm else .dbCount) ∈ select s 0x72B)) ∧
    -- rst with anything: RESET only
    (∀ v : In12, v.rst = true →
      select s v = [.reset] ∧
      ∃ t, runWords s [v] = .next t ∧
        t = { State.resetWith s.cfg with cycleNo := s.cycleNo + 1 })

/-- What the scheduler slice does depends only on its own registers, `direction`, `period`, `rst` and
`tick`: no edge, no byte and no cooldown ends or lengthens a wait (45_cycle.md R163, 60_exceptions.md
R197, 44_scheduler.md R144). -/
def Obligations.SchedulerSliceIsolated : Prop :=
  ∀ s s' t t' : State, s.index < s.cfg.n → s.cfg = s'.cfg → schedulerRegs s = schedulerRegs s' →
    (s.phase = .adv → s.direction = s'.direction) → (s.phase = .on → s.period = s'.period) →
    s.inputWord.rst = s'.inputWord.rst → s.inputWord.tick = s'.inputWord.tick →
    step s = .next t → step s' = .next t' → schedulerRegs t = schedulerRegs t'

/-- What the direction slice does depends only on its own registers, `rst`, `tick` and `edge_evt`
(45_cycle.md R163). -/
def Obligations.DirectionSliceIsolated : Prop :=
  ∀ s s' t t' : State, s.cfg = s'.cfg → directionRegs s = directionRegs s' →
    s.inputWord.rst = s'.inputWord.rst → s.inputWord.tick = s'.inputWord.tick →
    s.inputWord.edgeEvt = s'.inputWord.edgeEvt →
    step s = .next t → step s' = .next t' → directionRegs t = directionRegs t'

/-- What the speed slice does depends only on `period`, `rst`, `rx_valid` and, with a byte, `rx_data`
(45_cycle.md R163). -/
def Obligations.SpeedSliceIsolated : Prop :=
  ∀ s s' t t' : State, s.cfg = s'.cfg → s.period = s'.period →
    s.inputWord.rst = s'.inputWord.rst → s.inputWord.rxValid = s'.inputWord.rxValid →
    (s.inputWord.rxValid = true → s.inputWord.rxData = s'.inputWord.rxData) →
    step s = .next t → step s' = .next t' → speedRegs t = speedRegs t'

/-- An edge during the cooldown leaves no trace: the cycle's result is the same without it
(42_direction.md R111, 60_exceptions.md R177). -/
def Obligations.DroppedEdgeLeavesNoTrace : Prop :=
  ∀ (s : State) (f : InFields), s.armed = false →
    step { s with script := [{ f with edgeEvt := true }.word] } =
      step { s with script := [{ f with edgeEvt := false }.word] }

/-- Operations of different slices commute but for the two cross-slice reads, FLIP before ADV and
FASTER or SLOWER before ON (45_cycle.md R165). -/
def Obligations.SlicesCommute : Prop :=
  ∀ (s : State) (i j : Instr), i.slice ≠ j.slice → i.slice ≠ .all → j.slice ≠ .all →
    ¬ (i = .flip ∧ j = .adv) → ¬ (i = .adv ∧ j = .flip) →
    ¬ ((i = .faster ∨ i = .slower) ∧ j = .on) → ¬ (i = .on ∧ (j = .faster ∨ j = .slower)) →
    execAll [i, j] s = execAll [j, i] s

/-! ## Runs -/

/-- A wait of period `P` ends in the cycle of the `P`-th tick after ON, a tick in ON's own cycle not
counted, whatever edges and bytes come; the line stays lit and the cursor stays (44_scheduler.md
R151). -/
def Obligations.WaitLastsPeriodTicks : Prop :=
  ∀ (s : State) (w0 w : In12) (ws : List In12), s.cfg.legal → s.index < s.cfg.n → s.phase = .on →
    1 ≤ s.period.toInt → w0.rst = false → ResetFree ws → w.rst = false → w.tick = true →
    ((ticks ws : Int) < s.period.toInt →
      ∃ t, runWords s (w0 :: ws) = .next t ∧ t.phase = .wait ∧
        (t.waitCnt.toNat : Int) + ticks ws = s.period.toInt ∧ t.index = s.index ∧
        t.led.level s.index = true) ∧
    ((ticks ws : Int) + 1 = s.period.toInt →
      ∃ t, runWords s (w0 :: (ws ++ [w])) = .next t ∧ t.phase = .off ∧ t.waitCnt = 0 ∧
        t.index = s.index ∧ t.led.level s.index = true)

/-- A cooldown begun by an accepted edge ends in the cycle of the `DEBOUNCE_MS`-th tick after it; until
then every edge is dropped and the direction stays as the one flip left it (42_direction.md R112,
R117). -/
def Obligations.CooldownLastsDebounceTicks : Prop :=
  ∀ (s : State) (w0 w : In12) (ws : List In12), s.cfg.legal → s.armed = true →
    w0.rst = false → w0.edgeEvt = true → ResetFree ws → w.rst = false → w.tick = true →
    (ticks ws < s.cfg.debounceMs →
      ∃ t, runWords s (w0 :: ws) = .next t ∧ t.armed = false ∧
        t.dbCnt + ticks ws = s.cfg.debounceMs ∧ t.direction = flipped s.direction) ∧
    (ticks ws + 1 = s.cfg.debounceMs →
      ∃ t, runWords s (w0 :: (ws ++ [w])) = .next t ∧ t.armed = true ∧ t.dbCnt = 0 ∧
        t.direction = flipped s.direction)

/-- With a tick in every cycle and no edge, an iteration from ON with period `P` lasts `P + 3` cycles
and steps the cursor once (70_reset_and_hazards.md R216). -/
def Obligations.IterationLastsPeriodPlusThree : Prop :=
  ∀ (s : State) (ws : List In12), Inv s → s.phase = .on →
    (ws.length : Int) = s.period.toInt + 3 →
    (∀ w ∈ ws, w.rst = false ∧ w.tick = true ∧ w.edgeEvt = false) →
    ∃ t, runWords s ws = .next t ∧ t.phase = .on ∧
      t.index = next s.cfg.n s.index s.direction ∧ t.direction = s.direction

/-- The loop never stops: from every state that meets the invariants, under any words without reset
that hold `MAX_PERIOD` ticks (and at least one word), some prefix of the run is in the loop's next
phase (44_scheduler.md R152 (a), bounded). -/
def Obligations.LoopMakesProgress : Prop :=
  ∀ (s : State) (ws : List In12), Inv s → ResetFree ws → s.cfg.maxPeriod ≤ (ticks ws : Int) →
    ∃ k t, 1 ≤ k ∧ k ≤ ws.length ∧ runWords s (ws.take k) = .next t ∧
      t.phase = phaseAfter s.phase

/-- Sending `+` any number of times from `MIN_PERIOD` leaves `MIN_PERIOD` and reports the limit each
time (43_speed.md R132 (a), R126). -/
def Obligations.FasterAtMinimumStays : Prop :=
  ∀ (s : State) (ws : List In12), Inv s → s.period.toInt = s.cfg.minPeriod →
    (∀ w ∈ ws, w.rst = false ∧ w.rxValid = true ∧ w.rxData = 0x2B#8) →
    ∃ t, runWords s ws = .next t ∧ t.period.toInt = s.cfg.minPeriod ∧
      (ws ≠ [] → t.stCode = .limit)

/-! ## The cursor -/

/-- The successor function by its four cases, with its result again in the ring (41_cursor.md
R100). -/
def Obligations.SuccessorByCases : Prop :=
  ∀ n i : Nat, 2 ≤ n → i < n →
    (i = n - 1 → next n i .forward = 0) ∧ (i ≠ n - 1 → next n i .forward = i + 1) ∧
    (i = 0 → next n i .backward = n - 1) ∧ (i ≠ 0 → next n i .backward = i - 1) ∧
    ∀ d, next n i d < n

/-- The successors are the modular ones and inverse to each other (41_cursor.md R103). -/
def Obligations.SuccessorsAreInverse : Prop :=
  ∀ n i : Nat, 2 ≤ n → i < n →
    next n i .forward = (i + 1) % n ∧ next n i .backward = (i + n - 1) % n ∧
    next n (next n i .forward) .backward = i ∧ next n (next n i .backward) .forward = i

/-- From position `p`, `a` advances forward and then `b` backward end at `(p + a - b) mod N`; from
0, `k` advances give `k mod N` forward and `(-k) mod N` backward (41_cursor.md R104, R105). -/
def Obligations.CursorWalksTheRing : Prop :=
  ∀ n p : Nat, 2 ≤ n → p < n →
    (∀ a b : Nat,
      ((((fun i => next n i .backward)^[b]) (((fun i => next n i .forward)^[a]) p) : Nat) : Int) =
        ((p : Int) + a - b) % n) ∧
    (∀ k : Nat,
      ((fun i => next n i .forward)^[k]) 0 = k % n ∧
      ((((fun i => next n i .backward)^[k]) 0 : Nat) : Int) = (-(k : Int)) % n)

/-! ## Ports, scripts and the event-level view -/

/-- The output ports are the registers: bit `i` of port `led` is the level of position `i`, `edge_en`
is `armed`, `st_valid` says that there is a report, `period_o` is the period (30_encoding.md R76). -/
def Obligations.PortsShowRegisters : Prop :=
  ∀ s : State,
    (ports s).led.length = s.cfg.n ∧ (∀ i < s.cfg.n, (ports s).led[i]? = some (s.led.level i)) ∧
    (ports s).edgeEn = s.armed ∧ ((ports s).stValid = true ↔ s.stCode ≠ .none) ∧
    (ports s).stCode = s.stCode.code ∧ (ports s).periodO = s.period

/-- The items and pseudo-items of the script notation have the words 30_encoding.md R81 and R82
give. -/
def Obligations.ScriptItemsEncode : Prop :=
  wordOf [.tick, .edge] = 0x600 ∧ wordOf [.byte 0x2B] = 0x12B ∧
  wordOf [.tick, .edge, .byte 0x2B] = 0x72B ∧
  (Line.words 3 [.idle]).expand = [0x000, 0x000, 0x000] ∧
  Line.reset.expand = [0x800] ∧ Line.press.expand = [0x200] ∧ Line.faster.expand = [0x12B] ∧
  Line.slower.expand = [0x12D] ∧ (Line.ms 2).expand = [0x400, 0x400] ∧
  (Line.msGap 2 1).expand = [0x400, 0x000, 0x400, 0x000]

/-- Every cycle is a run of the event-level system (45_cycle.md R171): from corresponding states, the
cycle's occurrences, each enabled where it happens, lead to corresponding states again. `on` samples
the period and `edge` starts the timer in the view itself, and `wake` and `fire` wait for them; in the
hardware each happens in exactly the cycle whose tick makes it enabled, never later. That a cycle's
tick comes before its labels is assumption log 16; what a cycle with `rst = 1` is, assumption
log 19. -/
def Obligations.CycleRefinesEventView : Prop :=
  ∀ (s : State) (e : EventState) (w : In12), Inv s → Corresponds e s →
    (∃ t e', step { s with script := [w] } = .next t ∧
      eventRun s.cfg (cycleEvents s w) e = some e' ∧ Corresponds e' t) ∧
    Label.enabled s.cfg e .wake = false ∧ Label.enabled s.cfg e .fire = false ∧
    (w.rst = false → w.tick = true →
      (.wake ∈ labels s w ↔ Label.enabled s.cfg e.passTick .wake = true) ∧
      (.fire ∈ labels s w ↔ Label.enabled s.cfg e.passTick .fire = true)) ∧
    (w.tick = false → .wake ∉ labels s w ∧ .fire ∉ labels s w)

/-- Every run of the block from reset is a run of the event-level system over the labels of its cycles
(45_cycle.md R171), with one status report for each byte since the last reset (R170). The tick's place
in a cycle is assumption log 16, the reading of a cycle with `rst = 1` assumption log 19. -/
def Obligations.RunRefinesEventView : Prop :=
  ∀ (c : Config) (ws : List In12), c.legal →
    ∃ t e, runWords (State.resetWith c) ws = .next t ∧
      eventRun c (runEvents (State.resetWith c) ws) (EventState.start c) = some e ∧
      Corresponds e t ∧
      (ResetFree ws → e.reports.length = ws.countP In12.rxValid)

/-- The source's seven testable properties, all of them (45_cycle.md R172). -/
def Obligations.SourcePropertiesHold : Prop :=
  CyclicIndexSequence ∧ OneLineOnWhenSettled ∧ OneFlipPerPress ∧ RearmedEdgeFlipsOnce ∧
    PeriodStaysInBounds ∧ NineScenario ∧ InvalidByteIsReportedOnce
end

