-- ==== Sys2Proof/Laws/Decode.lean ====
section
/-!
SUPPORT. What the decoder answers for every selection word: the rows split into their high seven and
low eight bits, and the whole list a cycle selects, counter guards aside (30_encoding.md R75).
-/

namespace Sys2Proof

/-- A row tests the high seven bits and the byte independently. -/
theorem Row.accepts_append (r : Row) (h : BitVec 7) (d : BitVec 8) :
    r.accepts (h ++ d) =
      ((h &&& r.mask.extractLsb' 8 7 == r.matchBits.extractLsb' 8 7) &&
       (d &&& r.mask.extractLsb' 0 8 == r.matchBits.extractLsb' 0 8)) := by
  have app : ∀ i, BitVec.getLsbD (w := 15) (h ++ d) i = if i < 8 then d.getLsbD i else h.getLsbD (i - 8) :=
    fun i => BitVec.getLsbD_append
  rw [Row.accepts, Bool.eq_iff_iff]
  simp only [beq_iff_eq, Bool.and_eq_true]
  constructor
  · intro e
    have e' : ∀ i, ((h ++ d : BitVec 15) &&& r.mask).getLsbD i = r.matchBits.getLsbD i := fun i => by rw [e]
    simp only [BitVec.getLsbD_and, app] at e'
    refine ⟨?_, ?_⟩ <;> (apply BitVec.eq_of_getLsbD_eq; intro i hi)
    · have := e' (8 + i)
      simpa [hi] using this
    · have := e' i
      simpa [hi] using this
  · rintro ⟨e1, e2⟩
    apply BitVec.eq_of_getLsbD_eq
    intro i hi
    rw [BitVec.getLsbD_and, app]
    split
    · rename_i h8
      have := congrArg (·.getLsbD i) e2
      simpa [h8] using this
    · have := congrArg (·.getLsbD (i - 8)) e1
      have h7 : i - 8 < 7 := by omega
      have h8 : 8 + (i - 8) = i := by omega
      simpa [h7, h8] using this


/-- The scheduler rows that accept a phase and a tick (`rst = 0`). -/
def schedulerOps : Phase → Bool → List Instr
  | .on, _ => [.on]
  | .wait, true => [.waitCount, .waitEnd]
  | .wait, false => [.waitHold]
  | .off, _ => [.off]
  | .adv, _ => [.adv]

/-- The direction rows that accept `armed`, an edge and a tick (`rst = 0`). -/
def directionOps : Bool → Bool → Bool → List Instr
  | true, true, _ => [.flip]
  | true, false, _ => [.dirHold .armed]
  | false, true, true => [.drop, .dbCount, .rearm]
  | false, true, false => [.drop, .dirHold .cooldown]
  | false, false, true => [.dbCount, .rearm]
  | false, false, false => [.dirHold .cooldown]

/-- The speed operation of a byte, or of none (`rst = 0`). -/
def speedOp (v : Bool) (b : Byte) : Instr := if v then decodeCommand b else .stClear

/-- The rows outside the speed slice. -/
def highRows : List Row :=
  ⟨0x0800, 0x0800, fun _ => .reset⟩ :: (schedulerRows ++ directionRows)

/-- The table is the rows that look at no byte, then the speed rows. -/
theorem selectionTable_eq : selectionTable = highRows ++ speedRows := rfl

/-- Rows outside the speed slice do not look at the byte. -/
theorem highRows_low : ∀ r ∈ highRows,
    r.mask.extractLsb' 0 8 = 0#8 ∧ r.matchBits.extractLsb' 0 8 = 0#8 := by
  simp only [highRows, schedulerRows, directionRows]
  decide


/-- Rows outside the speed slice have no operand. -/
theorem highRows_instr (sel : Sel15) : ∀ r ∈ highRows, r.instr sel = r.instr 0 := by
  simp [highRows, schedulerRows, directionRows]

/-- The rows outside the speed slice, on the seven high bits. -/
theorem highRows_decode (a : Bool) (p : Phase) (x : BitVec 4) :
    ((highRows.filter (fun r => ((BitVec.ofBool a ++ p.code ++ x : BitVec 7) &&& r.mask.extractLsb' 8 7) ==
        r.matchBits.extractLsb' 8 7)).map (fun r => r.instr 0)) =
      if x.getLsbD 3 then [.reset]
      else schedulerOps p (x.getLsbD 2) ++ directionOps a (x.getLsbD 1) (x.getLsbD 2) := by
  revert x
  cases a <;> cases p <;> decide


/-- The rows of the ten command encodings, FASTER, SLOWER and INVALID's eight. -/
def commandRows : List Row := speedRows.take 10

/-- The command rows all ask for `rst = 0` and `rx_valid = 1`. -/
theorem commandRows_high : ∀ r ∈ commandRows,
    r.mask.extractLsb' 8 7 = 0x09#7 ∧ r.matchBits.extractLsb' 8 7 = 0x01#7 := by
  simp only [commandRows, speedRows, List.take]
  decide

/-- The ten command rows accept each byte exactly once, as 30_encoding.md R71 to R73 say. -/
theorem commandRows_decode (d : Byte) :
    ((commandRows.filter (fun r => d &&& r.mask.extractLsb' 0 8 == r.matchBits.extractLsb' 0 8)).map
      (fun r => r.instr (d.setWidth 15))) = [decodeCommand d] := by
  revert d; decide

/-- A command row reads no bit of the word but the byte. -/
theorem commandRows_instr (sel sel' : Sel15) (h : sel.rxData = sel'.rxData) :
    ∀ r ∈ commandRows, r.instr sel = r.instr sel' := by
  simp [commandRows, speedRows, h]

/-- The speed rows are the command rows and ST_CLEAR. -/
theorem speedRows_eq : speedRows = commandRows ++ [⟨0x0000, 0x0900, fun _ => .stClear⟩] := rfl

/-- When the speed rows accept the high bits. -/
theorem nibble_speed (a : Bool) (p : Phase) (x : BitVec 4) :
    (((BitVec.ofBool a ++ p.code ++ x : BitVec 7) &&& 0x09#7) == 0x01#7) = (!x.getLsbD 3 && x.getLsbD 0) ∧
    (((BitVec.ofBool a ++ p.code ++ x : BitVec 7) &&& 0x09#7) == 0x00#7) = (!x.getLsbD 3 && !x.getLsbD 0) := by
  revert x
  cases a <;> cases p <;> decide

/-- A selection word is its seven high bits and the byte. -/
theorem selWord_split (a : Bool) (p : Phase) (w : In12) :
    selWord a p w = (BitVec.ofBool a ++ p.code ++ w.extractLsb' 8 4 : BitVec 7) ++ w.rxData := by
  apply BitVec.eq_of_getLsbD_eq
  intro i hi
  have h1 := BitVec.getLsbD_append (n := 3) (m := 12) (x := BitVec.ofBool a ++ p.code) (y := w) (i := i)
  have h2 := BitVec.getLsbD_append (n := 7) (m := 8)
    (x := BitVec.ofBool a ++ p.code ++ w.extractLsb' 8 4) (y := w.rxData) (i := i)
  have h3 := BitVec.getLsbD_append (n := 3) (m := 4) (x := BitVec.ofBool a ++ p.code)
    (y := w.extractLsb' 8 4) (i := i - 8)
  refine h1.trans (Eq.trans ?_ h2.symm)
  by_cases h8 : i < 8
  · have h12 : i < 12 := by omega
    simp [h8, h12, In12.rxData]
  · simp only [h8, if_false]
    refine Eq.trans ?_ h3.symm
    by_cases h12 : i < 12
    · have h4 : i - 8 < 4 := by omega
      have e : 8 + (i - 8) = i := by omega
      simp [h12, h4, e]
    · have h4 : ¬ i - 8 < 4 := by omega
      have e : i - 8 - 4 = i - 12 := by omega
      simp [h12, h4, e]

/-- The byte of a word in two parts. -/
theorem append_rxData (h : BitVec 7) (d : Byte) : Sel15.rxData (h ++ d) = d := by
  rw [Sel15.rxData]
  apply BitVec.eq_of_getLsbD_eq
  intro i hi
  have := BitVec.getLsbD_append (n := 7) (m := 8) (x := h) (y := d) (i := i)
  simp only [BitVec.getLsbD_extractLsb', hi, decide_true, Bool.true_and, Nat.zero_add]
  simpa [hi] using this

/-- The byte of a widened byte. -/
theorem setWidth_rxData (d : Byte) : Sel15.rxData (d.setWidth 15) = d := by
  revert d; decide

/-- The rows outside the speed slice that accept a word. -/
theorem highRows_filter (a : Bool) (p : Phase) (x : BitVec 4) (d : Byte) :
    (highRows.filter (fun r => r.accepts ((BitVec.ofBool a ++ p.code ++ x : BitVec 7) ++ d))).map
        (fun r => r.instr ((BitVec.ofBool a ++ p.code ++ x : BitVec 7) ++ d)) =
      if x.getLsbD 3 then [.reset]
      else schedulerOps p (x.getLsbD 2) ++ directionOps a (x.getLsbD 1) (x.getLsbD 2) := by
  rw [← highRows_decode, List.map_congr_left
    (fun r hr => highRows_instr _ r (List.mem_of_mem_filter hr))]
  congr 1
  refine List.filter_congr fun r hr => ?_
  rw [Row.accepts_append]
  simp [highRows_low r hr]

/-- The rows of the speed slice that accept a word. -/
theorem speedRows_filter (a : Bool) (p : Phase) (x : BitVec 4) (d : Byte) :
    (speedRows.filter (fun r => r.accepts ((BitVec.ofBool a ++ p.code ++ x : BitVec 7) ++ d))).map
        (fun r => r.instr ((BitVec.ofBool a ++ p.code ++ x : BitVec 7) ++ d)) =
      if x.getLsbD 3 then [] else [speedOp (x.getLsbD 0) d] := by
  obtain ⟨h1, h0⟩ := nibble_speed a p x
  generalize (BitVec.ofBool a ++ p.code ++ x : BitVec 7) = h at h1 h0
  have hc : commandRows.filter (fun r => r.accepts (h ++ d)) =
      if !x.getLsbD 3 && x.getLsbD 0 then
        commandRows.filter (fun r => d &&& r.mask.extractLsb' 0 8 == r.matchBits.extractLsb' 0 8)
      else [] := by
    rw [List.filter_congr (q := fun r => (!x.getLsbD 3 && x.getLsbD 0) &&
      (d &&& r.mask.extractLsb' 0 8 == r.matchBits.extractLsb' 0 8)) fun r hr => by
        rw [Row.accepts_append, (commandRows_high r hr).1, (commandRows_high r hr).2, h1]]
    cases !x.getLsbD 3 && x.getLsbD 0 <;> simp
  have hs : (⟨0x0000, 0x0900, fun _ => .stClear⟩ : Row).accepts (h ++ d) =
      (!x.getLsbD 3 && !x.getLsbD 0) := by
    rw [Row.accepts_append, ← h0]
    simp
  rw [speedRows_eq, List.filter_append, List.map_append, hc, List.filter_singleton, hs]
  cases x.getLsbD 3 <;> cases x.getLsbD 0
  · simp [speedOp]
  · simp only [Bool.not_false, Bool.not_true, Bool.and_true, if_true, speedOp]
    rw [List.map_congr_left (fun r hr => commandRows_instr _ (d.setWidth 15)
      (by rw [append_rxData, setWidth_rxData]) r (List.mem_of_mem_filter hr)), commandRows_decode]
    simp
  · simp
  · simp

/-- The whole of what a cycle's selection word selects, guards aside. -/
theorem decode_selWord (a : Bool) (p : Phase) (w : In12) :
    decode (selWord a p w) =
      if w.rst then [.reset]
      else schedulerOps p w.tick ++ directionOps a w.edgeEvt w.tick ++ [speedOp w.rxValid w.rxData] := by
  rw [selWord_split, decode, selectionTable_eq, List.filter_append, List.map_append, highRows_filter,
    speedRows_filter]
  simp [In12.rst, In12.tick, In12.edgeEvt, In12.rxValid]
  split <;> simp

end Sys2Proof
end

