-- ==== Sys2Proof/Laws/Memory.lean ====
section
/-!
SUPPORT. The laws of the ring space: read after write, the canonical form and that every operation
keeps it, and that equal levels are equal rings (20_memory.md R51, R55).
-/

namespace Sys2Proof.Machine

/-- Inserting a position lists it. -/
theorem Memory.mem_insert (m : Memory) (pos : Nat) (c : Host.Cell) :
    c ∈ m.insert pos ↔ c = (pos, 1#8) ∨ c ∈ m := by
  induction m with
  | nil => simp [Memory.insert]
  | cons b m ih =>
    rw [Memory.insert]
    split
    · simp
    · simp only [List.mem_cons, ih]
      tauto

/-- Removing a position keeps the entries of the others. -/
theorem Memory.mem_remove (m : Memory) (pos : Nat) (c : Host.Cell) :
    c ∈ m.remove pos ↔ c ∈ m ∧ c.1 ≠ pos := by
  simp [Memory.remove]

/-- Read after write, the written cell. -/
@[simp] theorem Memory.level_write_same (m : Memory) (pos : Nat) (v : Bool) :
    (m.write pos v).level pos = v := by
  cases v <;> simp [Memory.level, Memory.write, Memory.mem_insert, Memory.mem_remove]

/-- Read after write, every other cell (20_memory.md R51). -/
theorem Memory.level_write_other (m : Memory) (pos a : Nat) (v : Bool) (h : a ≠ pos) :
    (m.write pos v).level a = m.level a := by
  cases v <;> simp [Memory.level, Memory.write, Memory.mem_insert, Memory.mem_remove, h]

/-- Read after write. -/
theorem Memory.level_write (m : Memory) (pos a : Nat) (v : Bool) :
    (m.write pos v).level a = if a = pos then v else m.level a := by
  split
  · subst_vars; simp
  · exact Memory.level_write_other m pos a v ‹_›

/-- The ring of given levels has them. -/
theorem Memory.level_ofLevels (n : Nat) (f : Nat → Bool) (a : Nat) :
    (Memory.ofLevels n f).level a = (decide (a < n) && f a) := by
  simp [Memory.level, Memory.ofLevels]

/-- `onehot(i)` has exactly position `i` ON. -/
@[simp] theorem Memory.level_onehot (i a : Nat) : (Memory.onehot i).level a = decide (a = i) := by
  simp [Memory.level, Memory.onehot]

/-- The empty ring has every position OFF. -/
@[simp] theorem Memory.level_nil (a : Nat) : Memory.level [] a = false := rfl

/-- Removing keeps the canonical form. -/
theorem Memory.wf_remove (m : Memory) (pos : Nat) (h : m.wf) : (m.remove pos).wf :=
  ⟨h.1.filter _, fun c hc => h.2 c ((Memory.mem_remove m pos c).1 hc).1⟩

/-- Inserting a position that is not listed keeps the canonical form. -/
theorem Memory.wf_insert (m : Memory) (pos : Nat) (h : m.wf) (hp : ∀ c ∈ m, c.1 ≠ pos) :
    (m.insert pos).wf := by
  induction m with
  | nil => simp [Memory.insert, Memory.wf]
  | cons b m ih =>
    obtain ⟨hpw, hone⟩ := h
    rw [List.pairwise_cons] at hpw
    have hb : b.1 ≠ pos := hp b (by simp)
    have hm : Memory.wf m := ⟨hpw.2, fun c hc => hone c (by simp [hc])⟩
    rw [Memory.insert]
    split
    · refine ⟨List.pairwise_cons.2 ⟨fun c hc => ?_, List.pairwise_cons.2 hpw⟩, fun c hc => ?_⟩
      · rcases List.mem_cons.1 hc with rfl | hc
        · assumption
        · have := hpw.1 c hc
          simp only
          omega
      · rcases List.mem_cons.1 hc with rfl | hc
        · rfl
        · exact hone c hc
    · have ih' := ih hm (fun c hc => hp c (by simp [hc]))
      refine ⟨List.pairwise_cons.2 ⟨fun c hc => ?_, ih'.1⟩, fun c hc => ?_⟩
      · rcases (Memory.mem_insert m pos c).1 hc with rfl | hc
        · simp only
          omega
        · exact hpw.1 c hc
      · rcases List.mem_cons.1 hc with rfl | hc
        · exact hone _ (by simp)
        · exact ih'.2 c hc

/-- A write keeps the canonical form. -/
theorem Memory.wf_write (m : Memory) (pos : Nat) (v : Bool) (h : m.wf) : (m.write pos v).wf := by
  cases v
  · exact Memory.wf_remove m pos h
  · exact Memory.wf_insert _ pos (Memory.wf_remove m pos h)
      (fun c hc => ((Memory.mem_remove m pos c).1 hc).2)

/-- The ring of given levels is in canonical form. -/
theorem Memory.wf_ofLevels (n : Nat) (f : Nat → Bool) : (Memory.ofLevels n f).wf := by
  refine ⟨?_, fun c hc => ?_⟩
  · rw [Memory.ofLevels, List.pairwise_map]
    exact (List.pairwise_lt_range (n := n)).filter _
  · simp only [Memory.ofLevels, List.mem_map] at hc
    obtain ⟨a, -, rfl⟩ := hc
    rfl

/-- The reset ring is in canonical form. -/
theorem Memory.wf_nil : Memory.wf [] := by simp [Memory.wf]

/-- `onehot(i)` is in canonical form. -/
theorem Memory.wf_onehot (i : Nat) : (Memory.onehot i).wf := by simp [Memory.wf, Memory.onehot]

/-- `MemWrite` keeps the canonical form, at any position. -/
theorem memWrite_wf (s : State) (pos : Nat) (v : Bool) (h : s.led.wf) : (memWrite s pos v).wf := by
  rw [memWrite]
  split
  · exact Memory.wf_write _ _ _ h
  · exact Memory.wf_ofLevels _ _

/-- Two rings in canonical form with the same levels are the same data. -/
theorem Memory.ext_level (m m' : Memory) (h : m.wf) (h' : m'.wf)
    (hl : ∀ a, m.level a = m'.level a) : m = m' := by
  have hmem : ∀ c, c ∈ m ↔ c ∈ m' := by
    rintro ⟨a, x⟩
    have ha := hl a
    simp only [Memory.level, decide_eq_decide] at ha
    constructor <;> intro hc
    · obtain rfl : x = 1#8 := h.2 _ hc
      exact ha.1 hc
    · obtain rfl : x = 1#8 := h'.2 _ hc
      exact ha.2 hc
  have nodup : ∀ {l : Memory}, l.wf → l.Nodup := fun hw =>
    hw.1.imp (fun {a b} hab => by rintro rfl; exact lt_irrefl _ hab)
  exact ((List.perm_ext_iff_of_nodup (nodup h) (nodup h')).2 hmem).eq_of_pairwise
    (fun a b _ _ hab hba => absurd (lt_trans hab hba) (lt_irrefl _)) h.1 h'.1

/-- `MemWrite` below `N`: the addressed cell takes the value, every other keeps its own. -/
theorem memWrite_level (s : State) (pos a : Nat) (v : Bool) (h : pos < s.cfg.n) :
    (memWrite s pos v).level a = if a = pos then v else s.led.level a := by
  rw [memWrite, if_pos h, Memory.level_write]

/-- Lighting a line of the dark ring gives `onehot`. -/
theorem Memory.write_nil_true (i : Nat) : Memory.write [] i true = Memory.onehot i := rfl

/-- Extinguishing the one lit line gives the dark ring. -/
theorem Memory.write_onehot_false (i : Nat) : (Memory.onehot i).write i false = [] := by
  simp [Memory.write, Memory.remove, Memory.onehot]

/-- `next` stays in the ring (41_cursor.md R100). -/
theorem next_lt (n i : Nat) (d : Direction) (h : i < n) : next n i d < n := by
  cases d <;> simp only [next] <;> split <;> omega

/-- What ADV writes, for a cursor in the ring. -/
theorem advanceIndex_of_lt (s : State) (h : s.index < s.cfg.n) :
    advanceIndex s = next s.cfg.n s.index s.direction := if_pos h

/-- The environment's word, when the script names it. -/
@[simp] theorem inputWord_cons (s : State) (w : In12) (ws : List In12) (h : s.script = w :: ws) :
    s.inputWord = w := by simp [State.inputWord, h]

end Sys2Proof.Machine
end

