-- ==== Sys2Proof/Laws/State.lean ====
section
/-!
SUPPORT. One lemma per field per update, each true by `rfl`.
-/

namespace Sys2Proof.Machine

variable (s : State)

/-! `setPhase` -/

@[simp] theorem setPhase_index (p : Phase) : (setPhase s p).index = s.index := rfl
@[simp] theorem setPhase_direction (p : Phase) : (setPhase s p).direction = s.direction := rfl
@[simp] theorem setPhase_period (p : Phase) : (setPhase s p).period = s.period := rfl
@[simp] theorem setPhase_armed (p : Phase) : (setPhase s p).armed = s.armed := rfl
@[simp] theorem setPhase_dbCnt (p : Phase) : (setPhase s p).dbCnt = s.dbCnt := rfl
@[simp] theorem setPhase_led (p : Phase) : (setPhase s p).led = s.led := rfl
@[simp] theorem setPhase_phase (p : Phase) : (setPhase s p).phase = p := rfl
@[simp] theorem setPhase_waitCnt (p : Phase) : (setPhase s p).waitCnt = s.waitCnt := rfl
@[simp] theorem setPhase_stCode (p : Phase) : (setPhase s p).stCode = s.stCode := rfl
@[simp] theorem setPhase_cfg (p : Phase) : (setPhase s p).cfg = s.cfg := rfl
@[simp] theorem setPhase_script (p : Phase) : (setPhase s p).script = s.script := rfl
@[simp] theorem setPhase_cycleNo (p : Phase) : (setPhase s p).cycleNo = s.cycleNo := rfl

/-! `setLine` -/

@[simp] theorem setLine_index (v : Bool) : (setLine s v).index = s.index := rfl
@[simp] theorem setLine_direction (v : Bool) : (setLine s v).direction = s.direction := rfl
@[simp] theorem setLine_period (v : Bool) : (setLine s v).period = s.period := rfl
@[simp] theorem setLine_armed (v : Bool) : (setLine s v).armed = s.armed := rfl
@[simp] theorem setLine_dbCnt (v : Bool) : (setLine s v).dbCnt = s.dbCnt := rfl
@[simp] theorem setLine_led (v : Bool) : (setLine s v).led = memWrite s s.index v := rfl
@[simp] theorem setLine_phase (v : Bool) : (setLine s v).phase = s.phase := rfl
@[simp] theorem setLine_waitCnt (v : Bool) : (setLine s v).waitCnt = s.waitCnt := rfl
@[simp] theorem setLine_stCode (v : Bool) : (setLine s v).stCode = s.stCode := rfl
@[simp] theorem setLine_cfg (v : Bool) : (setLine s v).cfg = s.cfg := rfl
@[simp] theorem setLine_script (v : Bool) : (setLine s v).script = s.script := rfl
@[simp] theorem setLine_cycleNo (v : Bool) : (setLine s v).cycleNo = s.cycleNo := rfl

/-! `setWaitCnt` -/

@[simp] theorem setWaitCnt_index (v : Word) : (setWaitCnt s v).index = s.index := rfl
@[simp] theorem setWaitCnt_direction (v : Word) : (setWaitCnt s v).direction = s.direction := rfl
@[simp] theorem setWaitCnt_period (v : Word) : (setWaitCnt s v).period = s.period := rfl
@[simp] theorem setWaitCnt_armed (v : Word) : (setWaitCnt s v).armed = s.armed := rfl
@[simp] theorem setWaitCnt_dbCnt (v : Word) : (setWaitCnt s v).dbCnt = s.dbCnt := rfl
@[simp] theorem setWaitCnt_led (v : Word) : (setWaitCnt s v).led = s.led := rfl
@[simp] theorem setWaitCnt_phase (v : Word) : (setWaitCnt s v).phase = s.phase := rfl
@[simp] theorem setWaitCnt_waitCnt (v : Word) : (setWaitCnt s v).waitCnt = v := rfl
@[simp] theorem setWaitCnt_stCode (v : Word) : (setWaitCnt s v).stCode = s.stCode := rfl
@[simp] theorem setWaitCnt_cfg (v : Word) : (setWaitCnt s v).cfg = s.cfg := rfl
@[simp] theorem setWaitCnt_script (v : Word) : (setWaitCnt s v).script = s.script := rfl
@[simp] theorem setWaitCnt_cycleNo (v : Word) : (setWaitCnt s v).cycleNo = s.cycleNo := rfl

/-! `setIndex` -/

@[simp] theorem setIndex_index (i : Nat) : (setIndex s i).index = i := rfl
@[simp] theorem setIndex_direction (i : Nat) : (setIndex s i).direction = s.direction := rfl
@[simp] theorem setIndex_period (i : Nat) : (setIndex s i).period = s.period := rfl
@[simp] theorem setIndex_armed (i : Nat) : (setIndex s i).armed = s.armed := rfl
@[simp] theorem setIndex_dbCnt (i : Nat) : (setIndex s i).dbCnt = s.dbCnt := rfl
@[simp] theorem setIndex_led (i : Nat) : (setIndex s i).led = s.led := rfl
@[simp] theorem setIndex_phase (i : Nat) : (setIndex s i).phase = s.phase := rfl
@[simp] theorem setIndex_waitCnt (i : Nat) : (setIndex s i).waitCnt = s.waitCnt := rfl
@[simp] theorem setIndex_stCode (i : Nat) : (setIndex s i).stCode = s.stCode := rfl
@[simp] theorem setIndex_cfg (i : Nat) : (setIndex s i).cfg = s.cfg := rfl
@[simp] theorem setIndex_script (i : Nat) : (setIndex s i).script = s.script := rfl
@[simp] theorem setIndex_cycleNo (i : Nat) : (setIndex s i).cycleNo = s.cycleNo := rfl

/-! `setDirection` -/

@[simp] theorem setDirection_index (d : Direction) : (setDirection s d).index = s.index := rfl
@[simp] theorem setDirection_direction (d : Direction) : (setDirection s d).direction = d := rfl
@[simp] theorem setDirection_period (d : Direction) : (setDirection s d).period = s.period := rfl
@[simp] theorem setDirection_armed (d : Direction) : (setDirection s d).armed = s.armed := rfl
@[simp] theorem setDirection_dbCnt (d : Direction) : (setDirection s d).dbCnt = s.dbCnt := rfl
@[simp] theorem setDirection_led (d : Direction) : (setDirection s d).led = s.led := rfl
@[simp] theorem setDirection_phase (d : Direction) : (setDirection s d).phase = s.phase := rfl
@[simp] theorem setDirection_waitCnt (d : Direction) : (setDirection s d).waitCnt = s.waitCnt := rfl
@[simp] theorem setDirection_stCode (d : Direction) : (setDirection s d).stCode = s.stCode := rfl
@[simp] theorem setDirection_cfg (d : Direction) : (setDirection s d).cfg = s.cfg := rfl
@[simp] theorem setDirection_script (d : Direction) : (setDirection s d).script = s.script := rfl
@[simp] theorem setDirection_cycleNo (d : Direction) : (setDirection s d).cycleNo = s.cycleNo := rfl

/-! `setGuard` -/

@[simp] theorem setGuard_index (a : Bool) (k : Nat) : (setGuard s a k).index = s.index := rfl
@[simp] theorem setGuard_direction (a : Bool) (k : Nat) : (setGuard s a k).direction = s.direction := rfl
@[simp] theorem setGuard_period (a : Bool) (k : Nat) : (setGuard s a k).period = s.period := rfl
@[simp] theorem setGuard_armed (a : Bool) (k : Nat) : (setGuard s a k).armed = a := rfl
@[simp] theorem setGuard_dbCnt (a : Bool) (k : Nat) : (setGuard s a k).dbCnt = k := rfl
@[simp] theorem setGuard_led (a : Bool) (k : Nat) : (setGuard s a k).led = s.led := rfl
@[simp] theorem setGuard_phase (a : Bool) (k : Nat) : (setGuard s a k).phase = s.phase := rfl
@[simp] theorem setGuard_waitCnt (a : Bool) (k : Nat) : (setGuard s a k).waitCnt = s.waitCnt := rfl
@[simp] theorem setGuard_stCode (a : Bool) (k : Nat) : (setGuard s a k).stCode = s.stCode := rfl
@[simp] theorem setGuard_cfg (a : Bool) (k : Nat) : (setGuard s a k).cfg = s.cfg := rfl
@[simp] theorem setGuard_script (a : Bool) (k : Nat) : (setGuard s a k).script = s.script := rfl
@[simp] theorem setGuard_cycleNo (a : Bool) (k : Nat) : (setGuard s a k).cycleNo = s.cycleNo := rfl

/-! `setPeriod` -/

@[simp] theorem setPeriod_index (p : Int) : (setPeriod s p).index = s.index := rfl
@[simp] theorem setPeriod_direction (p : Int) : (setPeriod s p).direction = s.direction := rfl
@[simp] theorem setPeriod_period (p : Int) : (setPeriod s p).period = BitVec.ofInt 32 p := rfl
@[simp] theorem setPeriod_armed (p : Int) : (setPeriod s p).armed = s.armed := rfl
@[simp] theorem setPeriod_dbCnt (p : Int) : (setPeriod s p).dbCnt = s.dbCnt := rfl
@[simp] theorem setPeriod_led (p : Int) : (setPeriod s p).led = s.led := rfl
@[simp] theorem setPeriod_phase (p : Int) : (setPeriod s p).phase = s.phase := rfl
@[simp] theorem setPeriod_waitCnt (p : Int) : (setPeriod s p).waitCnt = s.waitCnt := rfl
@[simp] theorem setPeriod_stCode (p : Int) : (setPeriod s p).stCode = s.stCode := rfl
@[simp] theorem setPeriod_cfg (p : Int) : (setPeriod s p).cfg = s.cfg := rfl
@[simp] theorem setPeriod_script (p : Int) : (setPeriod s p).script = s.script := rfl
@[simp] theorem setPeriod_cycleNo (p : Int) : (setPeriod s p).cycleNo = s.cycleNo := rfl

/-! `setStatus` -/

@[simp] theorem setStatus_index (c : StCode) : (setStatus s c).index = s.index := rfl
@[simp] theorem setStatus_direction (c : StCode) : (setStatus s c).direction = s.direction := rfl
@[simp] theorem setStatus_period (c : StCode) : (setStatus s c).period = s.period := rfl
@[simp] theorem setStatus_armed (c : StCode) : (setStatus s c).armed = s.armed := rfl
@[simp] theorem setStatus_dbCnt (c : StCode) : (setStatus s c).dbCnt = s.dbCnt := rfl
@[simp] theorem setStatus_led (c : StCode) : (setStatus s c).led = s.led := rfl
@[simp] theorem setStatus_phase (c : StCode) : (setStatus s c).phase = s.phase := rfl
@[simp] theorem setStatus_waitCnt (c : StCode) : (setStatus s c).waitCnt = s.waitCnt := rfl
@[simp] theorem setStatus_stCode (c : StCode) : (setStatus s c).stCode = c := rfl
@[simp] theorem setStatus_cfg (c : StCode) : (setStatus s c).cfg = s.cfg := rfl
@[simp] theorem setStatus_script (c : StCode) : (setStatus s c).script = s.script := rfl
@[simp] theorem setStatus_cycleNo (c : StCode) : (setStatus s c).cycleNo = s.cycleNo := rfl

/-! `acceptPeriod` -/

@[simp] theorem acceptPeriod_index (t : Int) : (acceptPeriod s t).index = s.index := rfl
@[simp] theorem acceptPeriod_direction (t : Int) : (acceptPeriod s t).direction = s.direction := rfl
@[simp] theorem acceptPeriod_period (t : Int) : (acceptPeriod s t).period = BitVec.ofInt 32 t := rfl
@[simp] theorem acceptPeriod_armed (t : Int) : (acceptPeriod s t).armed = s.armed := rfl
@[simp] theorem acceptPeriod_dbCnt (t : Int) : (acceptPeriod s t).dbCnt = s.dbCnt := rfl
@[simp] theorem acceptPeriod_led (t : Int) : (acceptPeriod s t).led = s.led := rfl
@[simp] theorem acceptPeriod_phase (t : Int) : (acceptPeriod s t).phase = s.phase := rfl
@[simp] theorem acceptPeriod_waitCnt (t : Int) : (acceptPeriod s t).waitCnt = s.waitCnt := rfl
@[simp] theorem acceptPeriod_stCode (t : Int) : (acceptPeriod s t).stCode = .changed := rfl
@[simp] theorem acceptPeriod_cfg (t : Int) : (acceptPeriod s t).cfg = s.cfg := rfl
@[simp] theorem acceptPeriod_script (t : Int) : (acceptPeriod s t).script = s.script := rfl
@[simp] theorem acceptPeriod_cycleNo (t : Int) : (acceptPeriod s t).cycleNo = s.cycleNo := rfl

/-! `raiseLimit` -/

@[simp] theorem raiseLimit_index (b : Int) : (raiseLimit s b).index = s.index := rfl
@[simp] theorem raiseLimit_direction (b : Int) : (raiseLimit s b).direction = s.direction := rfl
@[simp] theorem raiseLimit_period (b : Int) : (raiseLimit s b).period = BitVec.ofInt 32 b := rfl
@[simp] theorem raiseLimit_armed (b : Int) : (raiseLimit s b).armed = s.armed := rfl
@[simp] theorem raiseLimit_dbCnt (b : Int) : (raiseLimit s b).dbCnt = s.dbCnt := rfl
@[simp] theorem raiseLimit_led (b : Int) : (raiseLimit s b).led = s.led := rfl
@[simp] theorem raiseLimit_phase (b : Int) : (raiseLimit s b).phase = s.phase := rfl
@[simp] theorem raiseLimit_waitCnt (b : Int) : (raiseLimit s b).waitCnt = s.waitCnt := rfl
@[simp] theorem raiseLimit_stCode (b : Int) : (raiseLimit s b).stCode = .limit := rfl
@[simp] theorem raiseLimit_cfg (b : Int) : (raiseLimit s b).cfg = s.cfg := rfl
@[simp] theorem raiseLimit_script (b : Int) : (raiseLimit s b).script = s.script := rfl
@[simp] theorem raiseLimit_cycleNo (b : Int) : (raiseLimit s b).cycleNo = s.cycleNo := rfl

/-! `raiseInvalid` -/

@[simp] theorem raiseInvalid_index (b : Byte) : (raiseInvalid s b).index = s.index := rfl
@[simp] theorem raiseInvalid_direction (b : Byte) : (raiseInvalid s b).direction = s.direction := rfl
@[simp] theorem raiseInvalid_period (b : Byte) : (raiseInvalid s b).period = s.period := rfl
@[simp] theorem raiseInvalid_armed (b : Byte) : (raiseInvalid s b).armed = s.armed := rfl
@[simp] theorem raiseInvalid_dbCnt (b : Byte) : (raiseInvalid s b).dbCnt = s.dbCnt := rfl
@[simp] theorem raiseInvalid_led (b : Byte) : (raiseInvalid s b).led = s.led := rfl
@[simp] theorem raiseInvalid_phase (b : Byte) : (raiseInvalid s b).phase = s.phase := rfl
@[simp] theorem raiseInvalid_waitCnt (b : Byte) : (raiseInvalid s b).waitCnt = s.waitCnt := rfl
@[simp] theorem raiseInvalid_stCode (b : Byte) : (raiseInvalid s b).stCode = .invalid := rfl
@[simp] theorem raiseInvalid_cfg (b : Byte) : (raiseInvalid s b).cfg = s.cfg := rfl
@[simp] theorem raiseInvalid_script (b : Byte) : (raiseInvalid s b).script = s.script := rfl
@[simp] theorem raiseInvalid_cycleNo (b : Byte) : (raiseInvalid s b).cycleNo = s.cycleNo := rfl

/-! `resetRegisters` -/

@[simp] theorem resetRegisters_index : (resetRegisters s).index = 0 := rfl
@[simp] theorem resetRegisters_direction : (resetRegisters s).direction = .forward := rfl
@[simp] theorem resetRegisters_period : (resetRegisters s).period = BitVec.ofInt 32 s.cfg.initPeriod := rfl
@[simp] theorem resetRegisters_armed : (resetRegisters s).armed = true := rfl
@[simp] theorem resetRegisters_dbCnt : (resetRegisters s).dbCnt = 0 := rfl
@[simp] theorem resetRegisters_led : (resetRegisters s).led = [] := rfl
@[simp] theorem resetRegisters_phase : (resetRegisters s).phase = .on := rfl
@[simp] theorem resetRegisters_waitCnt : (resetRegisters s).waitCnt = 0 := rfl
@[simp] theorem resetRegisters_stCode : (resetRegisters s).stCode = .none := rfl
@[simp] theorem resetRegisters_cfg : (resetRegisters s).cfg = s.cfg := rfl
@[simp] theorem resetRegisters_script : (resetRegisters s).script = s.script := rfl
@[simp] theorem resetRegisters_cycleNo : (resetRegisters s).cycleNo = s.cycleNo := rfl

/-! `State.resetWith` -/

@[simp] theorem resetWith_index (c : Config) : (State.resetWith c).index = 0 := rfl
@[simp] theorem resetWith_direction (c : Config) : (State.resetWith c).direction = .forward := rfl
@[simp] theorem resetWith_period (c : Config) : (State.resetWith c).period = BitVec.ofInt 32 c.initPeriod := rfl
@[simp] theorem resetWith_armed (c : Config) : (State.resetWith c).armed = true := rfl
@[simp] theorem resetWith_dbCnt (c : Config) : (State.resetWith c).dbCnt = 0 := rfl
@[simp] theorem resetWith_led (c : Config) : (State.resetWith c).led = [] := rfl
@[simp] theorem resetWith_phase (c : Config) : (State.resetWith c).phase = .on := rfl
@[simp] theorem resetWith_waitCnt (c : Config) : (State.resetWith c).waitCnt = 0 := rfl
@[simp] theorem resetWith_stCode (c : Config) : (State.resetWith c).stCode = .none := rfl
@[simp] theorem resetWith_cfg (c : Config) : (State.resetWith c).cfg = c := rfl
@[simp] theorem resetWith_script (c : Config) : (State.resetWith c).script = [] := rfl
@[simp] theorem resetWith_cycleNo (c : Config) : (State.resetWith c).cycleNo = 0 := rfl

/-! `State.endCycle` -/

@[simp] theorem endCycle_index : s.endCycle.index = s.index := rfl
@[simp] theorem endCycle_direction : s.endCycle.direction = s.direction := rfl
@[simp] theorem endCycle_period : s.endCycle.period = s.period := rfl
@[simp] theorem endCycle_armed : s.endCycle.armed = s.armed := rfl
@[simp] theorem endCycle_dbCnt : s.endCycle.dbCnt = s.dbCnt := rfl
@[simp] theorem endCycle_led : s.endCycle.led = s.led := rfl
@[simp] theorem endCycle_phase : s.endCycle.phase = s.phase := rfl
@[simp] theorem endCycle_waitCnt : s.endCycle.waitCnt = s.waitCnt := rfl
@[simp] theorem endCycle_stCode : s.endCycle.stCode = s.stCode := rfl
@[simp] theorem endCycle_cfg : s.endCycle.cfg = s.cfg := rfl
@[simp] theorem endCycle_script : s.endCycle.script = s.script.tail := rfl
@[simp] theorem endCycle_cycleNo : s.endCycle.cycleNo = s.cycleNo + 1 := rfl

end Sys2Proof.Machine
end

