-- ==== Sys2Proof/Laws/Cycle.lean ====
section
/-!
SUPPORT. What one cycle can do, said once: what each operation does, which operations a cycle
selects, and what a step that answers has done.
-/

namespace Sys2Proof.Machine

/-! ## The operations -/

/-- Every operation answers a next state: no fault, no refusal (45_cycle.md R162). -/
theorem exec_next (i : Instr) (s : State) : ∃ t, exec i s = .next t := by
  cases i <;> exact ⟨_, rfl⟩

/-- No operation writes the model's own fields (10_state.md R32). -/
theorem exec_model_fields (i : Instr) (s t : State) (h : exec i s = .next t) :
    t.cfg = s.cfg ∧ t.script = s.script ∧ t.cycleNo = s.cycleNo := by
  cases i <;> simp only [exec, execReset, execOn, execWaitHold, execWaitCount, execWaitEnd, execOff,
    execAdv, execFlip, execDrop, execDbCount, execRearm, execDirHold, execFaster, execSlower,
    execInvalid, execStClear, Host.Outcome.next.injEq] at h <;> subst h
  case faster => split <;> simp
  case slower => split <;> simp
  all_goals simp [ledOn, ledOff]

/-- One operation after another. -/
theorem execAll_cons (i : Instr) (is : List Instr) (s t : State) (h : exec i s = .next t) :
    execAll (i :: is) s = execAll is t := by simp [execAll, h]

/-- Any list of operations answers a next state. -/
theorem execAll_next (is : List Instr) (s : State) : ∃ t, execAll is s = .next t := by
  induction is generalizing s with
  | nil => exact ⟨s, rfl⟩
  | cons i is ih =>
    obtain ⟨u, hu⟩ := exec_next i s
    rw [execAll_cons i is s u hu]
    exact ih u

/-- No list of operations writes the model's own fields. -/
theorem execAll_model_fields (is : List Instr) (s t : State) (h : execAll is s = .next t) :
    t.cfg = s.cfg ∧ t.script = s.script ∧ t.cycleNo = s.cycleNo := by
  induction is generalizing s with
  | nil => cases h; exact ⟨rfl, rfl, rfl⟩
  | cons i is ih =>
    obtain ⟨u, hu⟩ := exec_next i s
    rw [execAll_cons i is s u hu] at h
    obtain ⟨h1, h2, h3⟩ := ih u h
    obtain ⟨g1, g2, g3⟩ := exec_model_fields i s u hu
    exact ⟨h1.trans g1, h2.trans g2, h3.trans g3⟩

/-! ## The selection -/

/-- The one scheduler operation of a cycle (`rst = 0`). -/
def schedulerOp (s : State) (w : In12) : Instr :=
  match s.phase with
  | .on => .on
  | .wait => if w.tick then if s.waitCnt.toNat ≤ 1 then .waitEnd else .waitCount else .waitHold
  | .off => .off
  | .adv => .adv

/-- DROP, when the cycle has an edge during the cooldown (`rst = 0`). -/
def dropOps (s : State) (w : In12) : List Instr := if !s.armed && w.edgeEvt then [.drop] else []

/-- The one other direction operation of a cycle (`rst = 0`). -/
def directionOp (s : State) (w : In12) : Instr :=
  if s.armed then if w.edgeEvt then .flip else .dirHold .armed
  else if w.tick then if s.dbCnt ≤ 1 then .rearm else .dbCount
  else .dirHold .cooldown

/-- The operations of a cycle (30_encoding.md R75, reading rules 1 to 4). -/
theorem select_eq (s : State) (w : In12) :
    select s w =
      if w.rst then [.reset]
      else schedulerOp s w :: (dropOps s w ++ [directionOp s w, speedOp w.rxValid w.rxData]) := by
  have hsp : [speedOp w.rxValid w.rxData].filter (counterGuard s) = [speedOp w.rxValid w.rxData] := by
    simp only [speedOp, decodeCommand]
    split <;> (try split) <;> (try split) <;> rfl
  have hsc : (schedulerOps s.phase w.tick).filter (counterGuard s) = [schedulerOp s w] := by
    rw [schedulerOp]
    cases s.phase
    · rfl
    · cases w.tick
      · rfl
      · by_cases h : s.waitCnt.toNat ≤ 1
        · have h2 : ¬ 2 ≤ s.waitCnt.toNat := by omega
          simp [schedulerOps, counterGuard, waitLeft, waitOver, h, h2]
        · have h2 : 2 ≤ s.waitCnt.toNat := by omega
          simp [schedulerOps, counterGuard, waitLeft, waitOver, h, h2]
    · rfl
    · rfl
  have hdi : (directionOps s.armed w.edgeEvt w.tick).filter (counterGuard s) =
      dropOps s w ++ [directionOp s w] := by
    rw [dropOps, directionOp]
    cases s.armed <;> cases w.edgeEvt <;> cases w.tick <;> try rfl
    all_goals
      by_cases h : s.dbCnt ≤ 1
      · have h2 : ¬ 2 ≤ s.dbCnt := by omega
        simp [directionOps, List.filter_cons, counterGuard, cooldownLeft, cooldownOver, h, h2]
      · have h2 : 2 ≤ s.dbCnt := by omega
        simp [directionOps, List.filter_cons, counterGuard, cooldownLeft, cooldownOver, h, h2]
  rw [select, sel, decode_selWord]
  split
  · rfl
  · rw [List.filter_append, List.filter_append, hsc, hdi, hsp]
    simp

/-! ## The step -/

/-- A step that answers has performed the cycle's operations and gone on to the next word. -/
theorem step_eq_next (s t : State) (h : step s = .next t) :
    s.cfg.legal ∧ ∃ u, execAll (select s s.inputWord) s = .next u ∧ t = u.endCycle := by
  rw [step] at h
  split at h
  · rename_i hl
    obtain ⟨u, hu⟩ := execAll_next (select s s.inputWord) s
    rw [runCycle, hu] at h
    cases h
    exact ⟨hl, u, hu, rfl⟩
  · cases h

/-- What a legal state's step answers, given what its operations give. -/
theorem step_of_execAll (s u : State) (hl : s.cfg.legal)
    (hu : execAll (select s s.inputWord) s = .next u) : step s = .next u.endCycle := by
  rw [step, if_pos hl, runCycle, hu]

/-! ## Runs -/

/-- A run begins with one step under its first word. -/
theorem runWords_cons (s t : State) (w : In12) (ws : List In12)
    (h : step { s with script := [w] } = .next t) : runWords s (w :: ws) = runWords t ws := by
  simp [runWords, h]

/-- The operations of a run are those of its first cycle and of the rest. -/
theorem runOps_cons (s t : State) (w : In12) (ws : List In12)
    (h : step { s with script := [w] } = .next t) :
    runOps s (w :: ws) = select s w ++ runOps t ws := by
  simp [runOps, h]

/-- The occurrences of a run are those of its first cycle and of the rest. -/
theorem runEvents_cons (s t : State) (w : In12) (ws : List In12)
    (h : step { s with script := [w] } = .next t) :
    runEvents s (w :: ws) = cycleEvents s w ++ runEvents t ws := by
  simp [runEvents, h]

/-- A run over words and then more words goes on from where the first run ended. -/
theorem runWords_append (s t : State) (ws vs : List In12) (h : runWords s ws = .next t) :
    runWords s (ws ++ vs) = runWords t vs ∧ runOps s (ws ++ vs) = runOps s ws ++ runOps t vs ∧
      runEvents s (ws ++ vs) = runEvents s ws ++ runEvents t vs := by
  induction ws generalizing s with
  | nil => cases h; exact ⟨rfl, rfl, rfl⟩
  | cons w ws ih =>
    simp only [List.cons_append, runWords, runOps, runEvents] at h ⊢
    cases hs : step { s with script := [w] } with
    | next u =>
      rw [hs] at h
      obtain ⟨h1, h2, h3⟩ := ih u h
      simp only [h1, h2, h3, List.append_assoc, and_self]
    | fault f => rw [hs] at h; cases h
    | refused r => rw [hs] at h; cases h

end Sys2Proof.Machine
end

