-- ==== Sys2Proof/Laws/EventView.lean ====
section
/-!
SUPPORT. The event-level view: one lemma per field for a tick, and what an occurrence and a run can
do, said once.
-/

namespace Sys2Proof.Machine

/-! ## A tick, field by field -/

variable (e : EventState)

@[simp] theorem passTick_index : e.passTick.index = e.index := rfl
@[simp] theorem passTick_direction : e.passTick.direction = e.direction := rfl
@[simp] theorem passTick_period : e.passTick.period = e.period := rfl
@[simp] theorem passTick_armed : e.passTick.armed = e.armed := rfl
@[simp] theorem passTick_timer : e.passTick.timer = e.timer.map (· + 1) := rfl
@[simp] theorem passTick_ring : e.passTick.ring = e.ring := rfl
@[simp] theorem passTick_position : e.passTick.position = e.position.passTick := rfl
@[simp] theorem passTick_reports : e.passTick.reports = e.reports := rfl

/-! ## Occurrences and runs -/

/-- An occurrence leads somewhere exactly if it is no label or an enabled one. -/
theorem occur_eq_some (c : Config) (o : Occurrence) (e' : EventState) :
    occur c e o = some e' ↔
      (o = .tick ∧ e' = e.passTick) ∨ (o = .restart ∧ e' = EventState.start c) ∨
      ∃ l : Label, o = .label l ∧ l.enabled c e = true ∧ e' = l.effect c e := by
  cases o with
  | label l =>
    simp only [occur]
    split <;> rename_i h <;> simp [h, eq_comm (a := e')]
  | tick => simp [occur, eq_comm (a := e')]
  | restart => simp [occur, eq_comm (a := e')]

/-- A run over a list and then another is one run after the other. -/
theorem eventRun_append (c : Config) (os os' : List Occurrence) :
    eventRun c (os ++ os') e = (eventRun c os e).bind (eventRun c os') := by
  induction os generalizing e with
  | nil => rfl
  | cons o os ih =>
    simp only [List.cons_append, eventRun]
    cases occur c e o with
    | none => rfl
    | some e' => exact ih e'

/-- The start of the event-level system corresponds to the reset state. -/
theorem start_agrees (c : Config) :
    (EventState.start c).position.agrees (State.resetWith c) ∧
      timerAgrees (State.resetWith c) (EventState.start c).timer := ⟨rfl, rfl⟩

end Sys2Proof.Machine
end

