-- ==== Sys2Proof/Laws/PerInstr.lean ====
section
/-!
SUPPORT. Facts that hold for each operation as syntax, one lemma per constructor.
-/

namespace Sys2Proof.Laws

/-- Whatever a word's free bits are, an operation's own bits read back from its encoding as they were
written. -/
def EncodesOwnBits.Statement (i : Instr) : Prop :=
  i.wf = true → ∀ fill : Sel15, encode i fill &&& i.mask = i.matchBits

/-- The encoding's own bits, from the match lying inside the mask. -/
theorem encode_and_mask (i : Instr) (h : i.matchBits &&& i.mask = i.matchBits) (fill : Sel15) :
    encode i fill &&& i.mask = i.matchBits := by
  rw [← h, encode]
  apply BitVec.eq_of_getLsbD_eq
  intro k hk
  simp only [BitVec.getLsbD_and, BitVec.getLsbD_or, BitVec.getLsbD_not, hk, decide_true, Bool.true_and]
  cases i.matchBits.getLsbD k <;> cases i.mask.getLsbD k <;> simp

theorem EncodesOwnBits.reset : EncodesOwnBits.Statement .reset :=
  fun _ => encode_and_mask _ (by decide)
theorem EncodesOwnBits.on : EncodesOwnBits.Statement .on :=
  fun _ => encode_and_mask _ (by decide)
theorem EncodesOwnBits.waitHold : EncodesOwnBits.Statement .waitHold :=
  fun _ => encode_and_mask _ (by decide)
theorem EncodesOwnBits.waitCount : EncodesOwnBits.Statement .waitCount :=
  fun _ => encode_and_mask _ (by decide)
theorem EncodesOwnBits.waitEnd : EncodesOwnBits.Statement .waitEnd :=
  fun _ => encode_and_mask _ (by decide)
theorem EncodesOwnBits.off : EncodesOwnBits.Statement .off :=
  fun _ => encode_and_mask _ (by decide)
theorem EncodesOwnBits.adv : EncodesOwnBits.Statement .adv :=
  fun _ => encode_and_mask _ (by decide)
theorem EncodesOwnBits.flip : EncodesOwnBits.Statement .flip :=
  fun _ => encode_and_mask _ (by decide)
theorem EncodesOwnBits.drop : EncodesOwnBits.Statement .drop :=
  fun _ => encode_and_mask _ (by decide)
theorem EncodesOwnBits.dbCount : EncodesOwnBits.Statement .dbCount :=
  fun _ => encode_and_mask _ (by decide)
theorem EncodesOwnBits.rearm : EncodesOwnBits.Statement .rearm :=
  fun _ => encode_and_mask _ (by decide)
theorem EncodesOwnBits.dirHold (form : HoldForm) : EncodesOwnBits.Statement (.dirHold form) :=
  fun _ => encode_and_mask _ (by cases form <;> decide)
theorem EncodesOwnBits.faster : EncodesOwnBits.Statement .faster :=
  fun _ => encode_and_mask _ (by decide)
theorem EncodesOwnBits.slower : EncodesOwnBits.Statement .slower :=
  fun _ => encode_and_mask _ (by decide)
theorem EncodesOwnBits.invalid (b : Byte) : EncodesOwnBits.Statement (.invalid b) :=
  fun _ => encode_and_mask _ (by simp only [Instr.matchBits, Instr.mask]; revert b; decide)
theorem EncodesOwnBits.stClear : EncodesOwnBits.Statement .stClear :=
  fun _ => encode_and_mask _ (by decide)

end Sys2Proof.Laws
end

