-- ==== Sys2Proof/Tests/Slice0.lean ====
section
/-!
SUPPORT. The row's own tests: the smoke tests of WellFormed and of the parameters' constraints, each
operation's decoding from a word written bit by bit, small single-step tests, and for every statement
with hypotheses a concrete state and operands that meet them. Expected values come from
95_test_vectors.md (the table is named at each group) or are calculated by hand from the cited rule.
-/

namespace Sys2Proof.Tests

open Sys2Proof Sys2Proof.Machine

/-! ## Helpers -/

/-- A selection word field by field: `armed`, `phase`, `rst`, `tick`, `edge_evt`, `rx_valid`,
`rx_data` (30_encoding.md R70, R74, R75). -/
def bits (armed : BitVec 1) (phase : BitVec 2) (rst tick edge valid : BitVec 1) (data : BitVec 8) :
    Sel15 := armed ++ phase ++ rst ++ tick ++ edge ++ valid ++ data

/-- The next state of an outcome. -/
def nextOf : Host.Outcome State Fault Refusal → Option State
  | .next t => some t
  | .fault _ => none
  | .refused _ => none

/-- A state of CFG-REF in a phase, with a cursor, a period and a lit line at the cursor. -/
def refState (p : Phase) (i : Nat) (period : Word) (wait : Word) (lit : Bool) : State :=
  { State.reset with
    phase := p, index := i, period := period, waitCnt := wait,
    led := if lit then Memory.onehot i else [] }

/-- A state of CFG-REF with a debounce guard. -/
def guardState (d : Direction) (armed : Bool) (k : Nat) : State :=
  { State.reset with direction := d, armed := armed, dbCnt := k }

/-- The reset state of CFG-T. -/
def small : State := State.resetWith Config.small

/-- A state of CFG-T in the wait, with a debounce guard. -/
def smallWait (wait : Word) (armed : Bool) (k : Nat) : State :=
  { small with phase := .wait, waitCnt := wait, led := Memory.onehot 0, armed := armed, dbCnt := k }

/-! ## WellFormed: ill-formed terms are refused -/

theorem test_wf_refuses_plus : (Instr.invalid 0x2B).wf = false := by decide
theorem test_wf_refuses_minus : (Instr.invalid 0x2D).wf = false := by decide
theorem test_wf_takes_neighbours :
    (Instr.invalid 0x2A).wf = true ∧ (Instr.invalid 0x2C).wf = true ∧ (Instr.invalid 0x00).wf = true ∧
      (Instr.invalid 0xFF).wf = true := by decide

/-! ## The parameters' constraints (00_scope.md R8), each broken once -/

theorem test_legal : Config.reference.legal ∧ Config.small.legal := by decide
theorem test_illegal_n :
    ¬ Config.legal { Config.small with n := 1, ringIds := [0] } := by decide
theorem test_illegal_min : ¬ Config.legal { Config.small with minPeriod := 0 } := by decide
theorem test_illegal_init_low :
    ¬ Config.legal { Config.small with minPeriod := 3, maxPeriod := 4 } := by decide
theorem test_illegal_init_high : ¬ Config.legal { Config.small with initPeriod := 5 } := by decide
theorem test_illegal_step : ¬ Config.legal { Config.small with step := 0 } := by decide
theorem test_illegal_width :
    ¬ Config.legal { Config.small with maxPeriod := 2147483647 } := by decide
theorem test_legal_width : Config.legal { Config.small with maxPeriod := 2147483646 } := by decide
theorem test_illegal_debounce : ¬ Config.legal { Config.small with debounceMs := 0 } := by decide
theorem test_illegal_ring_length : ¬ Config.legal { Config.small with ringIds := [0, 1] } := by decide
theorem test_illegal_ring_repeat :
    ¬ Config.legal { Config.small with ringIds := [0, 1, 1] } := by decide
theorem test_step_refuses_illegal :
    step (State.resetWith { Config.small with step := 0 }) = .refused .illegalConfiguration := rfl

/-! ## Decoding: each operation's word, bit by bit (30_encoding.md R75, V-SEL) -/

theorem test_decode_reset : decode (bits 1 0b00 1 0 0 0 0b00000000) = [.reset] := by decide
theorem test_decode_on :
    decode (bits 1 0b00 0 0 0 0 0b00000000) = [.on, .dirHold .armed, .stClear] := by decide
theorem test_decode_waitHold :
    decode (bits 1 0b01 0 0 0 0 0b00000000) = [.waitHold, .dirHold .armed, .stClear] := by decide
theorem test_decode_wait_rows :
    decode (bits 1 0b01 0 1 0 0 0b00000000) = [.waitCount, .waitEnd, .dirHold .armed, .stClear] := by
  decide
theorem test_decode_off :
    decode (bits 0 0b10 0 0 0 1 0b11111111) = [.off, .dirHold .cooldown, .invalid 0xFF] := by decide
theorem test_decode_adv :
    decode (bits 0 0b11 0 1 1 0 0b00000000) = [.adv, .drop, .dbCount, .rearm, .stClear] := by decide
theorem test_decode_flip :
    decode (bits 1 0b01 0 1 1 1 0b00101011) = [.waitCount, .waitEnd, .flip, .faster] := by decide
theorem test_decode_drop :
    decode (bits 0 0b01 0 0 1 0 0b00000000) =
      [.waitHold, .drop, .dirHold .cooldown, .stClear] := by decide
theorem test_decode_slower :
    decode (bits 0 0b00 0 0 0 1 0b00101101) = [.on, .dirHold .cooldown, .slower] := by decide
theorem test_decode_byte_without_valid :
    decode (bits 1 0b01 0 0 0 0 0b00101011) = [.waitHold, .dirHold .armed, .stClear] := by decide

/-- CMD8 (V-SEL): one byte for each of the eight INVALID rows. -/
theorem test_decode_invalid_rows :
    [0x1F, 0x27, 0x2C, 0x29, 0x2F, 0x3F, 0x78, 0xAB].map decodeCommand =
      [.invalid 0x1F, .invalid 0x27, .invalid 0x2C, .invalid 0x29, .invalid 0x2F, .invalid 0x3F,
       .invalid 0x78, .invalid 0xAB] := by decide

theorem test_decode_refuses_wide :
    decodeNumber 32768 = .error .widerThanSel15 := by rfl

/-- `decodeTableWord` on the match words of the rows it names (assumption log 5). -/
theorem test_tableWord :
    decodeTableWord 16 0x0800 = some .reset ∧ decodeTableWord 16 0x0000 = some .on ∧
    decodeTableWord 16 0x1000 = some .waitHold ∧ decodeTableWord 16 0x1400 = some .waitEnd ∧
    decodeTableWord 16 0x2000 = some .off ∧ decodeTableWord 16 0x3000 = some .adv ∧
    decodeTableWord 16 0x4200 = some .flip ∧ decodeTableWord 16 0x0200 = some .drop ∧
    decodeTableWord 16 0x0400 = some .rearm ∧ decodeTableWord 16 0x012B = some .faster ∧
    decodeTableWord 16 0x012D = some .slower ∧ decodeTableWord 16 0x0129 = some (.invalid 0x29) := by
  decide

/-! ## Single steps -/

/-- V-SCH: ON with `+` loads the old period; the period changes in the same cycle. -/
theorem test_on_old_period :
    (nextOf (step { refState .on 3 450 0 false with script := [0x12B] })).map
      (fun t => (t.phase, t.waitCnt, t.led, t.period)) =
    some (.wait, 450, [(3, 1)], 400) := by decide

/-- V-RING: LED_ON at the highest position of the ring. -/
theorem test_on_last_position :
    (nextOf (exec .on (refState .on 8 500 0 false))).map (fun t => t.led) = some [(8, 1)] := by decide

/-- V-SCH: a cycle of the wait without a tick. -/
theorem test_waitHold :
    (nextOf (step { refState .wait 3 450 1 true with script := [0x000] })).map
      (fun t => (t.phase, t.waitCnt)) = some (.wait, 1) := by decide

/-- V-SCH: the last tick but one. -/
theorem test_waitCount :
    (nextOf (step { refState .wait 3 450 2 true with script := [0x400] })).map
      (fun t => (t.phase, t.waitCnt)) = some (.wait, 1) := by decide

/-- V-SCH: the last tick. -/
theorem test_waitEnd :
    (nextOf (step { refState .wait 3 450 1 true with script := [0x400] })).map
      (fun t => (t.phase, t.waitCnt, t.led)) = some (.off, 0, [(3, 1)]) := by decide

/-- V-SCH: OFF, its tick counted by nobody. -/
theorem test_off :
    (nextOf (step { refState .off 3 450 0 true with script := [0x400] })).map
      (fun t => (t.phase, t.led)) = some (.adv, []) := by decide

/-- 40_ring.md R91: extinguishing one line leaves another lit (not reachable). -/
theorem test_off_leaves_others :
    (nextOf (exec .off { refState .off 3 450 0 true with led := [(1, 1), (3, 1), (7, 1)] })).map
      (fun t => t.led) = some [(1, 1), (7, 1)] := by decide

/-- V-CUR: the two wraps. -/
theorem test_adv_wraps :
    (nextOf (exec .adv (refState .adv 8 500 0 false))).map (fun t => t.index) = some 0 ∧
    (nextOf (exec .adv { refState .adv 0 500 0 false with direction := .backward })).map
      (fun t => t.index) = some 8 := by decide

/-- V-CUR: a FLIP in the cycle of ADV; this ADV still steps forward. -/
theorem test_adv_with_flip :
    (nextOf (step { refState .adv 0 500 0 false with script := [0x200] })).map
      (fun t => (t.index, t.direction)) = some (1, .backward) := by decide

/-- V-DIR: the tick of the FLIP cycle is not counted. -/
theorem test_flip :
    (nextOf (step { guardState .forward true 0 with script := [0x600] })).map
      (fun t => (t.direction, t.armed, t.dbCnt)) = some (.backward, false, 20) := by decide

/-- V-DIR: an edge during the cooldown, without a tick. -/
theorem test_drop :
    (nextOf (step { guardState .backward false 1 with script := [0x200] })).map
      (fun t => (t.direction, t.armed, t.dbCnt)) = some (.backward, false, 1) := by decide

/-- V-DIR: DB_COUNT beside a dropped edge. -/
theorem test_dbCount :
    (nextOf (step { guardState .backward false 2 with script := [0x600] })).map
      (fun t => (t.direction, t.armed, t.dbCnt)) = some (.backward, false, 1) := by decide

/-- V-DIR: REARM; the edge of its cycle is lost. -/
theorem test_rearm :
    (nextOf (step { guardState .backward false 1 with script := [0x600] })).map
      (fun t => (t.direction, t.armed, t.dbCnt)) = some (.backward, true, 0) := by decide

/-- V-DIR: DIR_HOLD in both forms. -/
theorem test_dirHold :
    (nextOf (step { guardState .forward true 0 with script := [0x400] })).map
      (fun t => (t.direction, t.armed, t.dbCnt)) = some (.forward, true, 0) ∧
    (nextOf (step { guardState .backward false 20 with script := [0x000] })).map
      (fun t => (t.direction, t.armed, t.dbCnt)) = some (.backward, false, 20) := by decide

/-- V-SPD: FASTER just above the bound, exactly on it, and with a partial step. -/
theorem test_faster :
    [101, 100, 51].map (fun p => (nextOf (exec .faster (refState .on 0 p 0 false))).map
      (fun t => (t.period, t.stCode))) =
    [some (51, .changed), some (50, .limit), some (50, .limit)] := by decide

/-- V-SPD: `15 - 100 = -85`, compared over the integers. -/
theorem test_faster_negative :
    (nextOf (exec .faster (State.resetWith
      { Config.small with minPeriod := 10, maxPeriod := 20, initPeriod := 15, step := 100 }))).map
      (fun t => (t.period, t.stCode)) = some (10, .limit) := by decide

/-- V-SPD: SLOWER just below the bound, exactly on it, and with a partial step. -/
theorem test_slower :
    [59949, 59950, 59951].map (fun p => (nextOf (exec .slower (refState .on 0 p 0 false))).map
      (fun t => (t.period, t.stCode))) =
    [some (59999, .changed), some (60000, .limit), some (60000, .limit)] := by decide

/-- V-SPD: the byte `0x00` is a byte like any other. -/
theorem test_invalid :
    (nextOf (step { refState .on 0 500 0 false with script := [0x100] })).map
      (fun t => (t.period, t.stCode)) = some (500, .invalid) := by decide

/-- V-SPD: `rx_valid = 0`, so `rx_data` is ignored. -/
theorem test_stClear :
    (nextOf (step { refState .on 0 500 0 false with stCode := .limit, script := [0x02B] })).map
      (fun t => (t.period, t.stCode)) = some (500, .none) := by decide

/-- V-RST: `rst` with tick, edge and byte. -/
theorem test_reset :
    (nextOf (step { refState .wait 5 50 17 true with
      direction := .backward, armed := false, dbCnt := 3, stCode := .limit, script := [0xFFF] })) =
    some { State.reset with cycleNo := 1 } := by decide

/-- V-SPD, "Outputs": the ports after a clamped FASTER. -/
theorem test_ports :
    (nextOf (step { refState .on 0 100 0 false with script := [0x12B] })).map
      (fun t => (stValid t, stCodePort t, periodO t, edgeEn t, ledPort t)) =
    some (true, 0b10, 50, true, [true, false, false, false, false, false, false, false, false]) := by
  decide

/-- `withFetchWord` places a word where the next cycle reads it. -/
theorem test_withFetchWord :
    (nextOf (step (State.reset.withFetchWord 16 0x3000))).map (fun t => (t.phase, t.index)) =
      some (.on, 1) ∧
    (nextOf (step (State.reset.withFetchWord 16 0x0400))).map (fun t => (t.armed, t.phase)) =
      some (true, .wait) := by decide

/-! ## Witnesses: encoding, selection and the step -/

theorem witness_DecodeEncodeAgree :
    Instr.wf (.invalid 0x78) = true ∧ encode (.invalid 0x78) 0x5600 = 0x5778#15 ∧
      .invalid 0x78 ∈ decode 0x5778 := by decide
theorem witness_PerformedIffRowMatches :
    .waitCount ∈ select (smallWait 2 true 0) 0x400 ∧ .waitEnd ∈ select (smallWait 1 true 0) 0x400 ∧
    .dbCount ∈ select (smallWait 1 false 2) 0x400 ∧ .rearm ∈ select (smallWait 1 false 1) 0x400 := by
  decide
theorem witness_OneOperationPerSlice :
    In12.rst 0x800 = true ∧ In12.rst 0x7FF = false ∧
      .drop ∈ select (smallWait 1 false 1) 0x200 := by decide
theorem witness_SpeedOperationIsCommand : In12.rst 0x12B = false ∧ In12.rxValid 0x12B = true := by
  decide

/-- CFG-T's START cycle, written out (program P1 of 95_test_vectors.md, cycle 0). -/
theorem witness_StepRunsDecodedOperations :
    small.cfg.legal ∧
    execAll ((decode (selWord small.armed small.phase 0x000)).filter (counterGuard small))
      { small with script := [0x000] } =
      .next { small with phase := .wait, waitCnt := 2, led := [(0, 1)], script := [0x000] } :=
  ⟨by decide, rfl⟩
theorem witness_PlacedWordIsRun :
    small.cfg.legal ∧
    execAll ((decode 0x3200).filter (counterGuard small)) (placeWord small 0x3200) =
      .next { small with index := 1, phase := .on, armed := false, script := [0x200] } :=
  ⟨by decide, rfl⟩
theorem witness_StepIsCycleFunction : small.cfg.legal := by decide
theorem witness_StepIsTotal :
    small.cfg.legal ∧ ¬ (State.resetWith { Config.small with n := 0, ringIds := [] }).cfg.legal := by
  decide
theorem witness_ParametersNeverChange :
    step { small with script := [0x000, 0x400] } =
      .next { small with
        phase := .wait, waitCnt := 2, led := [(0, 1)], script := [0x400], cycleNo := 1 } := rfl
theorem witness_RingStaysCanonical :
    small.led.wf ∧ (∀ c ∈ small.led, c.1 < small.cfg.n) ∧
    step { small with script := [0x000] } =
      .next { small with phase := .wait, waitCnt := 2, led := [(0, 1)], cycleNo := 1 } :=
  ⟨by decide, by decide, rfl⟩

/-! ## Witnesses: invariants and reachable states, one in each phase

The four `witness_reachable` theorems are the witnesses of the statements over reachable states:
IndexInRange, PeriodInBounds, GuardMatchesTimer (`armed` both ways), PhaseRingAndWaitAgree and
NeverTwoLinesLit (each phase). -/

theorem witness_InvariantAtReset : Config.small.legal ∧ Config.reference.legal := by decide
theorem witness_InvariantKept :
    Inv small ∧ step { small with script := [0x200] } =
      .next { small with
        phase := .wait, waitCnt := 2, led := [(0, 1)], direction := .backward, armed := false,
        dbCnt := 2, cycleNo := 1 } := ⟨by decide, rfl⟩

/-- In the wait, in the cooldown: START with an edge. -/
def reachedWait : State :=
  { small with
    phase := .wait, waitCnt := 2, led := [(0, 1)], direction := .backward, armed := false,
    dbCnt := 2, cycleNo := 1 }

/-- After the second tick: the wait and the cooldown are over. -/
def reachedOff : State := { reachedWait with phase := .off, waitCnt := 0, armed := true, dbCnt := 0,
                                             cycleNo := 3 }

/-- After OFF. -/
def reachedAdv : State := { reachedOff with phase := .adv, led := [], cycleNo := 4 }

theorem witness_reachable_on : Reachable small := .reset _ (by decide)
theorem witness_reachable_wait : Reachable reachedWait :=
  .cycle _ _ (.environment _ [0x200] witness_reachable_on) rfl
theorem witness_reachable_off : Reachable reachedOff :=
  .cycle _ _ (.cycle _ { reachedWait with waitCnt := 1, dbCnt := 1, script := [0x400], cycleNo := 2 }
    (.environment _ [0x400, 0x400] witness_reachable_wait) rfl) rfl
theorem witness_reachable_adv : Reachable reachedAdv :=
  .cycle _ _ (.environment _ [0x000] witness_reachable_off) rfl

theorem witness_ReportIffByteHandled :
    step { small with script := [0x178] } =
      .next { small with
        phase := .wait, waitCnt := 2, led := [(0, 1)], stCode := .invalid, cycleNo := 1 } := rfl

/-- Boundaries: the last position, the full cooldown, and both bounds of the period. -/
theorem witness_RegistersFitTheirWidths :
    Inv { small with index := 2, armed := false, dbCnt := 2, period := 4 } := by decide
theorem witness_PwBitArithmeticIsExact : Inv { small with period := 1 } := by decide
theorem witness_PwBitArithmeticIsExact_max : Inv (State.resetWith { Config.small with
    maxPeriod := 2147483646, initPeriod := 2147483646 }) := by decide

/-! ## Witnesses: the operations -/

theorem witness_ResetEffect : reachedWait.cfg.legal := by decide
theorem witness_OnEffect : small.index < small.cfg.n := by decide
theorem witness_OffEffect : reachedOff.index < reachedOff.cfg.n := by decide
theorem witness_WaitCountAndWaitEndEffect : 2 ≤ (smallWait 2 true 0).waitCnt.toNat := by decide
theorem witness_AdvEffect : (refState .adv 8 500 0 false).index < State.reset.cfg.n := by decide
theorem witness_FasterEffect : (refState .on 0 51 0 false).cfg.legal := by decide
theorem witness_SlowerEffect : (refState .on 0 59951 0 false).cfg.legal := by decide
theorem witness_CursorOutsideRingStillRuns :
    small.cfg.n ≤ State.index { small with index := 3 } := by decide

/-! ## Witnesses: the slices of one cycle, each clause -/

theorem witness_SchedulerSliceTable :
    small.cfg.legal ∧ small.index < small.cfg.n ∧ small.phase = .on ∧
    In12.rst 0x000 = false ∧ In12.tick 0x000 = false ∧ In12.rst 0x400 = false ∧
    In12.tick 0x400 = true ∧
    (smallWait 2 true 0).phase = .wait ∧ 2 ≤ (smallWait 2 true 0).waitCnt.toNat ∧
    (smallWait 1 true 0).phase = .wait ∧ (smallWait 1 true 0).waitCnt.toNat ≤ 1 ∧
    reachedOff.phase = .off ∧ reachedAdv.phase = .adv ∧
    (smallWait 1 true 0).cfg.legal ∧ (smallWait 1 true 0).index < (smallWait 1 true 0).cfg.n := by
  decide
theorem witness_DirectionSliceTable :
    small.cfg.legal ∧ small.armed = true ∧ (smallWait 2 false 2).armed = false ∧
    (smallWait 2 false 2).cfg.legal ∧
    In12.rst 0x600 = false ∧ In12.edgeEvt 0x600 = true ∧ In12.tick 0x600 = true ∧
    In12.rst 0x000 = false ∧ In12.edgeEvt 0x000 = false ∧ In12.tick 0x000 = false ∧
    2 ≤ (smallWait 2 false 2).dbCnt ∧ (smallWait 2 false 1).dbCnt ≤ 1 := by decide

/-- Each clause at its boundary: 101 and 100 for FASTER, 59949 and 59950 for SLOWER. -/
theorem witness_SpeedSliceTable :
    Config.reference.legal ∧
    In12.rst 0x02B = false ∧ In12.rxValid 0x02B = false ∧
    In12.rst 0x12B = false ∧ In12.rxValid 0x12B = true ∧ In12.rxData 0x12B = 0x2B#8 ∧
    In12.rst 0x12D = false ∧ In12.rxValid 0x12D = true ∧ In12.rxData 0x12D = 0x2D#8 ∧
    In12.rst 0x12C = false ∧ In12.rxValid 0x12C = true ∧ In12.rxData 0x12C ≠ 0x2B#8 ∧
    In12.rxData 0x12C ≠ 0x2D#8 ∧
    (101#32).toInt - Config.reference.step > Config.reference.minPeriod ∧
    (100#32).toInt - Config.reference.step ≤ Config.reference.minPeriod ∧
    (59949#32).toInt + Config.reference.step < Config.reference.maxPeriod ∧
    (59950#32).toInt + Config.reference.step ≥ Config.reference.maxPeriod := by decide
theorem witness_ResetOverridesEverything :
    reachedWait.cfg.legal ∧ In12.rst 0xFFF = true := by decide
theorem witness_StartLightsPositionZero :
    Config.reference.legal ∧ In12.rst 0x72B = false := by decide

/-- The eleven rows of SameCycleCases, in order, where a row has two cases both of them; a run after
the first row's cycle performs one ADV and no FLIP, and after the third row's a run without a byte comes
to PH_ON. -/
theorem witness_SameCycleCases :
    Config.small.legal ∧ In12.rst 0x200 = false ∧ In12.rst 0x600 = false ∧ In12.rst 0x12B = false ∧
    (reachedAdv.phase = .adv ∧ reachedAdv.armed = true ∧ reachedAdv.index < reachedAdv.cfg.n ∧
      In12.edgeEvt 0x200 = true) ∧
    (reachedOff.phase = .off ∧ reachedOff.armed = true ∧ reachedOff.index < reachedOff.cfg.n) ∧
    (small.phase = .on ∧ In12.rxValid 0x12B = true ∧ In12.rxData 0x12B = 0x2B#8 ∧
      In12.rxValid 0x12D = true ∧ In12.rxData 0x12D = 0x2D#8) ∧
    (In12.tick 0x52B = true ∧ In12.rxValid 0x52B = true ∧ In12.rst 0x52B = false ∧
      (smallWait 2 true 0).phase = .wait ∧ (smallWait 1 true 0).phase = .wait) ∧
    (small.armed = true ∧ In12.edgeEvt 0x600 = true ∧ In12.tick 0x600 = true) ∧
    ((smallWait 2 false 1).armed = false ∧ (smallWait 2 false 1).dbCnt ≤ 1) ∧
    ((smallWait 2 false 2).phase = .wait ∧ (smallWait 2 false 2).armed = false ∧
      2 ≤ (smallWait 2 false 2).waitCnt.toNat ∧ 2 ≤ (smallWait 2 false 2).dbCnt) ∧
    (smallWait 1 false 1).waitCnt.toNat ≤ 1 ∧
    (reachedOff.phase ≠ .wait ∧ In12.tick 0x400 = true) ∧ In12.rst 0xFFF = true := by decide
theorem witness_SameCycleCases_nextAdv :
    Instr.flip ∉ runOps reachedAdv [0x000, 0x000, 0x400, 0x400, 0x000] ∧
    (runOps { reachedAdv with phase := .on } [0x000, 0x400, 0x400, 0x000, 0x000]).count .adv = 1 := by
  decide
theorem witness_SameCycleCases_nextOn :
    (nextOf (runWords small [0x12B, 0x400, 0x400, 0x000, 0x000])).map
      (fun t => (t.phase, t.period)) = some (.on, 1) := by decide

/-- Two states that differ in the direction slice and in the input's edge and byte. -/
theorem witness_SchedulerSliceIsolated :
    schedulerRegs { smallWait 2 true 0 with script := [0x400] } =
      schedulerRegs { smallWait 2 false 2 with script := [0x72B] } ∧
    State.index (smallWait 2 true 0) < 3 ∧
    In12.tick 0x400 = In12.tick 0x72B ∧ In12.rst 0x400 = In12.rst 0x72B ∧
    (∃ t, step { smallWait 2 true 0 with script := [0x400] } = .next t) ∧
    (∃ t, step { smallWait 2 false 2 with script := [0x72B] } = .next t) :=
  ⟨rfl, by decide, rfl, rfl, ⟨_, rfl⟩, ⟨_, rfl⟩⟩

/-- Two states that differ in the scheduler's registers and in the input's byte. -/
theorem witness_DirectionSliceIsolated :
    directionRegs { small with script := [0x600] } =
      directionRegs { smallWait 2 true 0 with script := [0x678] } ∧
    In12.edgeEvt 0x600 = In12.edgeEvt 0x678 ∧ In12.tick 0x600 = In12.tick 0x678 ∧
    In12.rst 0x600 = In12.rst 0x678 ∧
    (∃ t, step { small with script := [0x600] } = .next t) ∧
    (∃ t, step { smallWait 2 true 0 with script := [0x678] } = .next t) :=
  ⟨rfl, rfl, rfl, rfl, ⟨_, rfl⟩, ⟨_, rfl⟩⟩

/-- Two states that differ in the other slices' registers and in the input's tick and edge. -/
theorem witness_SpeedSliceIsolated :
    State.period small = State.period (smallWait 2 false 2) ∧
    In12.rxValid 0x12B = In12.rxValid 0x72B ∧ In12.rxData 0x12B = In12.rxData 0x72B ∧
    In12.rst 0x12B = In12.rst 0x72B ∧
    (∃ t, step { small with script := [0x12B] } = .next t) ∧
    (∃ t, step { smallWait 2 false 2 with script := [0x72B] } = .next t) :=
  ⟨rfl, rfl, rfl, rfl, ⟨_, rfl⟩, ⟨_, rfl⟩⟩
theorem witness_DroppedEdgeLeavesNoTrace : (smallWait 2 false 1).armed = false := by decide

/-- Two slices in both orders, and the speed operations that may stand beside ON and beside FLIP. -/
theorem witness_SlicesCommute :
    Instr.slice .on ≠ Instr.slice .flip ∧ Instr.slice .on ≠ .all ∧ Instr.slice .flip ≠ .all ∧
    Instr.slice .stClear ≠ Instr.slice .on ∧ Instr.slice (.invalid 0x78) ≠ Instr.slice .on ∧
    ¬ ((Instr.stClear = .faster ∨ Instr.stClear = .slower) ∧ Instr.on = .on) ∧
    ¬ ((Instr.invalid 0x78 = .faster ∨ Instr.invalid 0x78 = .slower) ∧ Instr.on = .on) ∧
    ¬ (Instr.on = .flip ∧ Instr.flip = .adv) ∧ ¬ (Instr.on = .adv ∧ Instr.flip = .flip) ∧
    ¬ (Instr.on = .on ∧ (Instr.flip = .faster ∨ Instr.flip = .slower)) := by decide

/-! ## Witnesses: runs -/

/-- Both clauses at `P = 2`: one tick so far, and the second one. -/
theorem witness_WaitLastsPeriodTicks :
    small.cfg.legal ∧ small.index < small.cfg.n ∧ small.phase = .on ∧ 1 ≤ small.period.toInt ∧
    In12.rst 0x400 = false ∧ ResetFree [0x200, 0x400] ∧ In12.tick 0x400 = true ∧
    ((ticks [0x200, 0x400] : Nat) : Int) < small.period.toInt ∧
    ((ticks [0x200, 0x400] : Nat) : Int) + 1 = small.period.toInt := by decide
theorem witness_CooldownLastsDebounceTicks :
    small.cfg.legal ∧ small.armed = true ∧ In12.rst 0x200 = false ∧ In12.edgeEvt 0x200 = true ∧
    ResetFree [0x200, 0x600] ∧ In12.rst 0x400 = false ∧ In12.tick 0x400 = true ∧
    ticks [0x200, 0x600] < small.cfg.debounceMs ∧
    ticks [0x200, 0x600] + 1 = small.cfg.debounceMs := by decide
theorem witness_IterationLastsPeriodPlusThree :
    Inv small ∧ small.phase = .on ∧
    ((List.replicate 5 (0x400 : In12)).length : Int) = small.period.toInt + 3 ∧
    (∀ w ∈ List.replicate 5 (0x400 : In12),
      In12.rst w = false ∧ In12.tick w = true ∧ In12.edgeEvt w = false) := by decide
theorem witness_LoopMakesProgress :
    Inv (smallWait 4 true 0) ∧ ResetFree (List.replicate 4 0x400) ∧
    (smallWait 4 true 0).cfg.maxPeriod ≤ ((ticks (List.replicate 4 0x400) : Nat) : Int) := by decide
theorem witness_FasterAtMinimumStays :
    Inv { small with period := 1 } ∧ (1#32).toInt = small.cfg.minPeriod ∧
    (∀ w ∈ [(0x12B : In12), 0x72B],
      In12.rst w = false ∧ In12.rxValid w = true ∧ In12.rxData w = 0x2B#8) := by decide

/-! ## Witnesses: the cursor, the ports and the event-level view -/

/-- The least legal ring, both ends; V-CUR. -/
theorem witness_Successors :
    2 ≤ 2 ∧ (0 : Nat) < 2 ∧ (1 : Nat) < 2 ∧ next 2 0 .forward = 1 ∧ next 2 1 .forward = 0 ∧
    next 2 0 .backward = 1 ∧ next 2 1 .backward = 0 := by decide

/-- 41_cursor.md R105, V-CUR: from 0, three advances forward and five backward, N = 9. -/
theorem witness_CursorWalksTheRing :
    2 ≤ 9 ∧ (0 : Nat) < 9 ∧
    ((fun i => next 9 i .backward)^[5]) (((fun i => next 9 i .forward)^[3]) 0) = 7 := by decide
theorem witness_PortsShowRegisters :
    2 < reachedWait.cfg.n ∧ (ports reachedWait).led = [true, false, false] := by decide

/-- A state of the view in the last tick of its wait and of its cooldown. -/
def lastTickView : EventState :=
  { EventState.start Config.small with
    position := .waiting 2 1, armed := false, timer := some 1, ring := [(0, 1)] }

theorem witness_CycleRefinesEventView :
    Inv (smallWait 1 false 1) ∧ Corresponds lastTickView (smallWait 1 false 1) ∧
    In12.rst 0x72B = false ∧ In12.tick 0x72B = true ∧ In12.tick 0x32B = false :=
  ⟨by decide,
   { index := rfl, direction := rfl, period := by decide, armed := rfl, ring := rfl,
     position := ⟨rfl, by decide⟩, timer := ⟨rfl, by decide⟩, report := by decide },
   by decide, by decide, by decide⟩

/-- The cycle of `0x72B` there: its tick, then its labels in the table's order (45_cycle.md R171). -/
theorem test_cycleEvents :
    cycleEvents (smallWait 1 false 1) 0x72B =
      [.tick, .label .wake, .label .edge, .label .fire, .label (.byte 0x2B)] ∧
    cycleEvents (smallWait 1 false 1) 0xFFF = [.restart] := by decide

/-- 45_cycle.md R170: neither `wake` nor `fire` can happen a tick too early, both can in the last tick,
and `fire` cannot happen a second time. -/
theorem test_eventRun :
    eventRun Config.small [.label .wake] lastTickView = none ∧
    eventRun Config.small [.label .fire] lastTickView = none ∧
    (eventRun Config.small [.tick, .label .wake, .label .fire] lastTickView).map
      (fun e => (e.position, e.armed, e.timer)) = some (.extinguish, true, none) ∧
    eventRun Config.small [.tick, .label .fire, .label .fire] lastTickView = none := by decide

theorem witness_RunRefinesEventView :
    Config.small.legal ∧ ResetFree [0x12B, 0x400] ∧
    [(0x12B : In12), 0x400].countP In12.rxValid = 1 := by decide

/-! ## Witnesses: the source's properties (45_cycle.md R172) -/

/-- The reset state of CFG-T, but walking backward. -/
def smallBackward : State := { small with direction := .backward }

/-- One iteration without FLIP, forward and backward. -/
theorem witness_CyclicIndexSequence :
    Inv small ∧ Inv smallBackward ∧
    ResetFree [0x000, 0x400, 0x400, 0x000, 0x000] ∧
    Instr.flip ∉ runOps small [0x000, 0x400, 0x400, 0x000, 0x000] ∧
    Instr.flip ∉ runOps smallBackward [0x000, 0x400, 0x400, 0x000, 0x000] ∧
    (runOps small [0x000, 0x400, 0x400, 0x000, 0x000]).count .adv = 1 :=
  ⟨by decide, by decide, by decide, by decide, by decide, by decide⟩
theorem witness_OneLineOnWhenSettled : Reachable reachedWait ∧ Settled reachedWait :=
  ⟨witness_reachable_wait, by decide⟩
theorem witness_OneFlipPerPress :
    small.cfg.legal ∧ small.armed = true ∧ In12.rst 0x200 = false ∧ In12.edgeEvt 0x200 = true ∧
    ResetFree [0x200, 0x600] ∧ ticks [0x200, 0x600] < small.cfg.debounceMs := by decide
theorem witness_RearmedEdgeFlipsOnce :
    Config.small.legal ∧ Instr.rearm ∈ select (smallWait 2 false 1) 0x600 ∧
    (∀ v ∈ [(0x400 : In12), 0x12B], In12.rst v = false ∧ In12.edgeEvt v = false) ∧
    In12.rst 0x200 = false ∧ In12.edgeEvt 0x200 = true := by decide
theorem witness_PeriodStaysInBounds :
    Reachable small ∧ (State.period { small with period := 1 }).toInt = small.cfg.minPeriod ∧
    AllBytes 0x2B [0x12B, 0x72B] := ⟨witness_reachable_on, by decide, by decide⟩
theorem witness_NineScenario :
    Config.reference.legal ∧ IsReference Config.reference ∧ AllBytes 0x2B (List.replicate 10 0x12B) ∧
    (List.replicate 10 (0x12B : In12)).length = 10 ∧ AllBytes 0x2D [0x12D] := by decide
theorem witness_InvalidByteIsReportedOnce :
    small.cfg.legal ∧ In12.rst 0x378 = false ∧ In12.rxValid 0x378 = true ∧
    In12.rxData 0x378 ≠ 0x2B#8 ∧ In12.rxData 0x378 ≠ 0x2D#8 ∧ In12.rst 0x000 = false ∧
    In12.rxValid 0x000 = false := by decide

/-- 95_test_vectors.md S1 and S2: the ten periods of `+` from 500, and `-` after them, in CFG-REF. -/
theorem test_S1_S2 :
    [1, 2, 8, 9, 10].map (fun k => (nextOf (runWords State.reset (List.replicate k 0x12B))).map
      (fun t => (t.period, t.stCode))) =
      [some (450, .changed), some (400, .changed), some (100, .changed), some (50, .limit),
       some (50, .limit)] ∧
    (nextOf (runWords State.reset (List.replicate 10 0x12B ++ [0x12D]))).map
      (fun t => (t.period, t.stCode)) = some (100, .changed) := by decide

end Sys2Proof.Tests
end

section
/-!
PROOFS. The reset cycle (10_state.md R34): the period a legal configuration allows is held exactly in
32 bits, and a cycle with `rst = 1` performs RESET and nothing else.
-/

namespace Sys2Proof.Machine

/-- A period within a legal configuration's bounds is its own 32-bit signed reading
(00_scope.md R8, 10_state.md R23). -/
theorem toInt_ofInt_of_period_bounds (c : Config) (hl : c.legal) (p : Int)
    (hmin : c.minPeriod ≤ p) (hmax : p ≤ c.maxPeriod) : (BitVec.ofInt 32 p).toInt = p := by
  obtain ⟨-, ⟨hpos, -, -⟩, hstep, htop, -⟩ := hl
  exact BitVec.toInt_ofInt_eq_self (by decide) (by omega) (by omega)

/-- `INIT_PERIOD` of a legal configuration is its own 32-bit signed reading. -/
theorem toInt_ofInt_initPeriod (c : Config) (hl : c.legal) :
    (BitVec.ofInt 32 c.initPeriod).toInt = c.initPeriod := by
  have ⟨_, ⟨_, hmin, hmax⟩, _⟩ := hl
  exact toInt_ofInt_of_period_bounds c hl _ hmin hmax

/-- RESET alone is selected, so a cycle with `rst = 1` leaves the reset registers
(30_encoding.md R75, 45_cycle.md R160). -/
theorem step_of_rst (s : State) (hl : s.cfg.legal) (hr : s.inputWord.rst = true) :
    step s = .next (resetRegisters s).endCycle := by
  have hsel : select s s.inputWord = [.reset] := by rw [select_eq, if_pos hr]
  refine step_of_execAll s _ hl ?_
  rw [hsel, execAll_cons _ _ _ _ (rfl : exec .reset s = .next (resetRegisters s))]
  rfl

/-- Settles O40: the one operation of the cycle is RESET, and its register values do not depend on
what was held. -/
theorem resetOverridesEverything : Obligations.ResetOverridesEverything := by
  intro s w hl hr
  have hword : State.inputWord { s with script := [w] } = w := inputWord_cons _ w [] rfl
  have hstep := step_of_rst { s with script := [w] } hl (by rw [hword]; exact hr)
  refine ⟨_, hstep, ?_⟩
  simp [toInt_ofInt_initPeriod s.cfg hl]

end Sys2Proof.Machine
end

section
/-!
PROOFS. The direction slice's one-line rules (42_direction.md R110, R113, R114): which words match a row
that looks at no byte, which direction operations a cycle performs, and what FLIP, DB_COUNT and REARM
write.
-/

namespace Sys2Proof.Machine

/-! ## Matching -/

/-- A mask that looks at no byte compares the seven high bits of a selection word only
(30_encoding.md R70, R75). -/
theorem selWord_and_eq_iff_high (a : Bool) (p : Phase) (w : In12) (matchBits mask : Sel15)
    (hmatch : matchBits.extractLsb' 0 8 = 0#8) (hmask : mask.extractLsb' 0 8 = 0#8) :
    selWord a p w &&& mask = matchBits ↔
      (BitVec.ofBool a ++ p.code ++ w.extractLsb' 8 4 : BitVec 7) &&& mask.extractLsb' 8 7 =
        matchBits.extractLsb' 8 7 := by
  have hrow := Row.accepts_append ⟨matchBits, mask, fun _ => .reset⟩
    (BitVec.ofBool a ++ p.code ++ w.extractLsb' 8 4) w.rxData
  rw [← selWord_split, Row.accepts, Bool.eq_iff_iff] at hrow
  simpa [hmatch, hmask] using hrow

/-- When the high bits are those of FLIP's row, and of the row of DB_COUNT and REARM. -/
theorem nibble_direction (a : Bool) (p : Phase) (x : BitVec 4) :
    ((BitVec.ofBool a ++ p.code ++ x : BitVec 7) &&& 0x4A#7 = 0x42#7 ↔
      x.getLsbD 3 = false ∧ a = true ∧ x.getLsbD 1 = true) ∧
    ((BitVec.ofBool a ++ p.code ++ x : BitVec 7) &&& 0x4C#7 = 0x04#7 ↔
      x.getLsbD 3 = false ∧ a = false ∧ x.getLsbD 2 = true) := by
  revert x
  cases a <;> cases p <;> decide

/-- FLIP's row accepts an edge while armed, in a cycle without reset. -/
theorem selWord_matches_flip (a : Bool) (p : Phase) (w : In12) :
    selWord a p w &&& 0x4A00 = 0x4200 ↔ w.rst = false ∧ a = true ∧ w.edgeEvt = true := by
  rw [selWord_and_eq_iff_high a p w _ _ (by decide) (by decide)]
  simpa [In12.rst, In12.edgeEvt] using (nibble_direction a p (w.extractLsb' 8 4)).1

/-- The row of DB_COUNT and REARM accepts a tick of the cooldown, in a cycle without reset. -/
theorem selWord_matches_cooldownTick (a : Bool) (p : Phase) (w : In12) :
    selWord a p w &&& 0x4C00 = 0x0400 ↔ w.rst = false ∧ a = false ∧ w.tick = true := by
  rw [selWord_and_eq_iff_high a p w _ _ (by decide) (by decide)]
  simpa [In12.rst, In12.tick] using (nibble_direction a p (w.extractLsb' 8 4)).2

/-! ## Selection -/

/-- A line of the selection table from its two halves: when the word matches, and that the operation
is performed on such a word under its guard. -/
theorem selectedBy_of_iff (i : Instr) (s : State) (w : In12) (matchBits mask : Sel15)
    (inWords guard : Prop) (hmatch : selWord s.armed s.phase w &&& mask = matchBits ↔ inWords)
    (hmem : i ∈ select s w ↔ inWords ∧ guard) : SelectedBy i s w matchBits mask inWords guard :=
  ⟨hmem.trans (and_congr_left' hmatch.symm), hmatch⟩

/-- The scheduler's operation of a cycle is one of its slice. -/
theorem schedulerOp_slice (s : State) (w : In12) : (schedulerOp s w).slice = .scheduler := by
  rw [schedulerOp]
  split
  case h_2 => split <;> (try split) <;> rfl
  all_goals rfl

/-- The speed operation of a cycle is one of its slice. -/
theorem speedOp_slice (v : Bool) (b : Byte) : (speedOp v b).slice = .speed := by
  rw [speedOp, decodeCommand]
  split <;> (try split) <;> (try split) <;> rfl

/-- A cycle performs of the direction slice DROP, on a dropped edge, and one other operation. -/
theorem mem_select_of_direction_slice (i : Instr) (hi : i.slice = .direction) (s : State) (w : In12) :
    i ∈ select s w ↔ w.rst = false ∧ (i ∈ dropOps s w ∨ i = directionOp s w) := by
  have hreset : i ≠ .reset := by rintro rfl; cases hi
  have hsched : i ≠ schedulerOp s w := by
    rintro rfl; rw [schedulerOp_slice] at hi; cases hi
  have hspeed : i ≠ speedOp w.rxValid w.rxData := by
    rintro rfl; rw [speedOp_slice] at hi; cases hi
  rw [select_eq]
  cases w.rst <;> simp [hreset, hsched, hspeed]

/-- No operation but DROP is performed for a dropped edge. -/
theorem not_mem_dropOps (i : Instr) (hi : i ≠ .drop) (s : State) (w : In12) : i ∉ dropOps s w := by
  rw [dropOps]
  split <;> simp [hi]

/-- Of the direction slice a cycle performs, DROP aside, exactly its one direction operation. -/
theorem mem_select_iff_directionOp (i : Instr) (hi : i.slice = .direction) (hdrop : i ≠ .drop)
    (s : State) (w : In12) : i ∈ select s w ↔ w.rst = false ∧ directionOp s w = i := by
  rw [mem_select_of_direction_slice i hi, or_iff_right (not_mem_dropOps i hdrop s w), eq_comm (a := i)]

/-- While armed the direction operation depends on the edge only. -/
theorem directionOp_of_armed (s : State) (w : In12) (ha : s.armed = true) :
    directionOp s w = if w.edgeEvt then .flip else .dirHold .armed := if_pos ha

/-- In the cooldown it depends on the tick and `db_cnt` only. -/
theorem directionOp_of_cooldown (s : State) (w : In12) (ha : s.armed = false) :
    directionOp s w =
      if w.tick then if s.dbCnt ≤ 1 then .rearm else .dbCount else .dirHold .cooldown :=
  if_neg (by simp [ha])

/-- The direction operation is FLIP exactly on an edge while armed. -/
theorem directionOp_eq_flip (s : State) (w : In12) :
    directionOp s w = .flip ↔ s.armed = true ∧ w.edgeEvt = true := by
  cases ha : s.armed with
  | true => rw [directionOp_of_armed s w ha]; split <;> simp [*]
  | false => rw [directionOp_of_cooldown s w ha]; split <;> (try split) <;> simp

/-- The direction operation is DB_COUNT exactly on a tick of the cooldown that is not the last. -/
theorem directionOp_eq_dbCount (s : State) (w : In12) :
    directionOp s w = .dbCount ↔ s.armed = false ∧ w.tick = true ∧ 2 ≤ s.dbCnt := by
  cases ha : s.armed with
  | true => rw [directionOp_of_armed s w ha]; split <;> simp
  | false =>
    have hlast : 2 ≤ s.dbCnt ↔ ¬ s.dbCnt ≤ 1 := by omega
    rw [directionOp_of_cooldown s w ha, hlast]
    split <;> (try split) <;> simp [*]

/-- The direction operation is REARM exactly on the last tick of the cooldown. -/
theorem directionOp_eq_rearm (s : State) (w : In12) :
    directionOp s w = .rearm ↔ s.armed = false ∧ w.tick = true ∧ s.dbCnt ≤ 1 := by
  cases ha : s.armed with
  | true => rw [directionOp_of_armed s w ha]; split <;> simp
  | false => rw [directionOp_of_cooldown s w ha]; split <;> (try split) <;> simp [*]

/-! ## Effects -/

/-- The direction FLIP writes, as R110's two cases. -/
theorem flipped_eq_ite (d : Direction) : flipped d = if d = .forward then .backward else .forward := by
  cases d <;> rfl

/-- FLIP writes `direction`, `armed` and `db_cnt`. -/
theorem exec_flip (s : State) :
    exec .flip s =
      .next { s with direction := flipped s.direction, armed := false, dbCnt := s.cfg.debounceMs } := rfl

/-- DB_COUNT writes `db_cnt`. -/
theorem exec_dbCount (s : State) : exec .dbCount s = .next { s with dbCnt := s.dbCnt - 1 } := rfl

/-- REARM writes `db_cnt` and `armed`. -/
theorem exec_rearm (s : State) : exec .rearm s = .next { s with dbCnt := 0, armed := true } := rfl

/-! ## The obligations -/

/-- Settles O31: FLIP's row, the direction operation it makes the cycle's, and its three writes. -/
theorem flipEffect : Obligations.FlipEffect := by
  intro s w
  refine ⟨selectedBy_of_iff _ _ _ _ _ _ _ (selWord_matches_flip _ _ w) ?_, ?_⟩
  · rw [mem_select_iff_directionOp .flip rfl (by decide), directionOp_eq_flip, and_true]
  · rw [exec_flip, flipped_eq_ite]

/-- Settles O32: DB_COUNT and REARM share a row, and `db_cnt` decides between them. -/
theorem dbCountAndRearmEffect : Obligations.DbCountAndRearmEffect := by
  intro s w
  have hmatch := selWord_matches_cooldownTick s.armed s.phase w
  refine ⟨selectedBy_of_iff _ _ _ _ _ _ _ hmatch ?_, selectedBy_of_iff _ _ _ _ _ _ _ hmatch ?_,
    exec_dbCount s, by omega, exec_rearm s⟩
  · rw [mem_select_iff_directionOp .dbCount rfl (by decide), directionOp_eq_dbCount]
    simp only [and_assoc]
  · rw [mem_select_iff_directionOp .rearm rfl (by decide), directionOp_eq_rearm]
    simp only [and_assoc]

end Sys2Proof.Machine
end

section
/-!
PROOFS. The speed slice's operations that leave `period` alone (43_speed.md R128, R129): which words the
byte's rows match, which speed operation a cycle performs, and what INVALID and ST_CLEAR write.
-/

namespace Sys2Proof.Machine

/-! ## Matching -/

/-- The bits that all command rows share accept a presented byte, in a cycle without reset. -/
theorem selWord_matches_byte (a : Bool) (p : Phase) (w : In12) :
    selWord a p w &&& 0x0900 = 0x0100 ↔ w.rst = false ∧ w.rxValid = true := by
  rw [selWord_and_eq_iff_high a p w _ _ (by decide) (by decide)]
  have hbits := (nibble_speed a p (w.extractLsb' 8 4)).1
  rw [Bool.eq_iff_iff] at hbits
  simpa [In12.rst, In12.rxValid] using hbits

/-- ST_CLEAR's row accepts a cycle without a byte and without reset. -/
theorem selWord_matches_noByte (a : Bool) (p : Phase) (w : In12) :
    selWord a p w &&& 0x0900 = 0x0000 ↔ w.rst = false ∧ w.rxValid = false := by
  rw [selWord_and_eq_iff_high a p w _ _ (by decide) (by decide)]
  have hbits := (nibble_speed a p (w.extractLsb' 8 4)).2
  rw [Bool.eq_iff_iff] at hbits
  simpa [In12.rst, In12.rxValid] using hbits

/-! ## Selection -/

/-- The direction operation of a cycle is one of its slice. -/
theorem directionOp_slice (s : State) (w : In12) : (directionOp s w).slice = .direction := by
  cases ha : s.armed with
  | true => rw [directionOp_of_armed s w ha]; split <;> rfl
  | false => rw [directionOp_of_cooldown s w ha]; split <;> (try split) <;> rfl

/-- Of the speed slice a cycle performs exactly its one speed operation. -/
theorem mem_select_iff_speedOp (i : Instr) (hi : i.slice = .speed) (s : State) (w : In12) :
    i ∈ select s w ↔ w.rst = false ∧ speedOp w.rxValid w.rxData = i := by
  have hreset : i ≠ .reset := by rintro rfl; cases hi
  have hsched : i ≠ schedulerOp s w := by
    rintro rfl; rw [schedulerOp_slice] at hi; cases hi
  have hdrop : i ∉ dropOps s w := not_mem_dropOps i (by rintro rfl; cases hi) s w
  have hdir : i ≠ directionOp s w := by
    rintro rfl; rw [directionOp_slice] at hi; cases hi
  rw [select_eq]
  cases w.rst <;> simp [hreset, hsched, hdrop, hdir, eq_comm (a := i)]

/-- A byte decodes to INVALID with itself as operand, unless it is one of the two commands. -/
theorem decodeCommand_eq_invalid (d b : Byte) :
    decodeCommand d = .invalid b ↔ d = b ∧ b ≠ 0x2B#8 ∧ b ≠ 0x2D#8 := by
  constructor
  · intro h
    rw [decodeCommand] at h
    split at h
    · cases h
    · split at h
      · cases h
      · cases h; exact ⟨rfl, ‹_›, ‹_›⟩
  · rintro ⟨rfl, hplus, hminus⟩
    rw [decodeCommand, if_neg hplus, if_neg hminus]

/-- No byte decodes to ST_CLEAR. -/
theorem decodeCommand_ne_stClear (d : Byte) : decodeCommand d ≠ .stClear := by
  rw [decodeCommand]
  split <;> (try split) <;> simp

/-- The speed operation is INVALID exactly with a presented byte that is no command. -/
theorem speedOp_eq_invalid (v : Bool) (d b : Byte) :
    speedOp v d = .invalid b ↔ v = true ∧ d = b ∧ b ≠ 0x2B#8 ∧ b ≠ 0x2D#8 := by
  rw [← decodeCommand_eq_invalid]
  cases v <;> simp [speedOp]

/-- The speed operation is ST_CLEAR exactly without a byte. -/
theorem speedOp_eq_stClear (v : Bool) (d : Byte) : speedOp v d = .stClear ↔ v = false := by
  cases v <;> simp [speedOp, decodeCommand_ne_stClear]

/-! ## Effects -/

/-- INVALID writes `st_code`, the same for every byte. -/
theorem exec_invalid (b : Byte) (s : State) :
    exec (.invalid b) s = .next { s with stCode := .invalid } := rfl

/-- ST_CLEAR writes `st_code`. -/
theorem exec_stClear (s : State) : exec .stClear s = .next { s with stCode := .none } := rfl

/-! ## The obligation -/

/-- Settles O35: the rows' bits say whether a byte is presented, and the byte itself, which INVALID's
guard looks at, decides between INVALID and the two commands. -/
theorem invalidAndStClearEffect : Obligations.InvalidAndStClearEffect := by
  intro s w
  refine ⟨fun b => selectedBy_of_iff _ _ _ _ _ _ _ (selWord_matches_byte _ _ w) ?_,
    selectedBy_of_iff _ _ _ _ _ _ _ (selWord_matches_noByte _ _ w) ?_,
    fun b => exec_invalid b s, exec_stClear s⟩
  · rw [mem_select_iff_speedOp (.invalid b) rfl, speedOp_eq_invalid, and_assoc]
  · rw [mem_select_iff_speedOp .stClear rfl, speedOp_eq_stClear, and_true]

end Sys2Proof.Machine
end

section
/-!
PROOFS. The scheduler's one-line rules (44_scheduler.md R141, R142, R146 to R148): which words match its
rows, which scheduler operation a cycle performs, what ON, OFF, WAIT_COUNT and WAIT_END write, and that
the scheduler's registers after a cycle are those its own operation leaves.
-/

namespace Sys2Proof.Machine

/-! ## Matching -/

/-- When the high bits are those of a phase's row. -/
theorem nibble_phase (a : Bool) (p q : Phase) (x : BitVec 4) :
    (BitVec.ofBool a ++ p.code ++ x : BitVec 7) &&& 0x38#7 = 0#1 ++ q.code ++ 0#4 ↔
      x.getLsbD 3 = false ∧ p = q := by
  revert x
  cases a <;> cases p <;> cases q <;> decide

/-- When the high bits are those of the row of WAIT_COUNT and WAIT_END. -/
theorem nibble_waitTick (a : Bool) (p : Phase) (x : BitVec 4) :
    (BitVec.ofBool a ++ p.code ++ x : BitVec 7) &&& 0x3C#7 = 0x14#7 ↔
      x.getLsbD 3 = false ∧ p = .wait ∧ x.getLsbD 2 = true := by
  revert x
  cases a <;> cases p <;> decide

/-- A row that tests `rst` and `phase` only accepts the cycles of its phase without reset. -/
theorem selWord_matches_phase (a : Bool) (p q : Phase) (w : In12) :
    selWord a p w &&& 0x3800 = selWord false q 0 ↔ w.rst = false ∧ p = q := by
  rw [selWord_and_eq_iff_high a p w _ _ (by cases q <;> decide) (by decide)]
  have hhigh : (selWord false q 0).extractLsb' 8 7 = 0#1 ++ q.code ++ 0#4 := by cases q <;> decide
  rw [hhigh]
  simpa [In12.rst] using nibble_phase a p q (w.extractLsb' 8 4)

/-- The row of WAIT_COUNT and WAIT_END accepts a tick of the wait, in a cycle without reset. -/
theorem selWord_matches_waitTick (a : Bool) (p : Phase) (w : In12) :
    selWord a p w &&& 0x3C00 = 0x1400 ↔ w.rst = false ∧ p = .wait ∧ w.tick = true := by
  rw [selWord_and_eq_iff_high a p w _ _ (by decide) (by decide)]
  simpa [In12.rst, In12.tick] using nibble_waitTick a p (w.extractLsb' 8 4)

/-! ## Selection -/

/-- Of the scheduler slice a cycle performs exactly its one scheduler operation. -/
theorem mem_select_iff_schedulerOp (i : Instr) (hi : i.slice = .scheduler) (s : State) (w : In12) :
    i ∈ select s w ↔ w.rst = false ∧ schedulerOp s w = i := by
  have hreset : i ≠ .reset := by rintro rfl; cases hi
  have hdrop : i ∉ dropOps s w := not_mem_dropOps i (by rintro rfl; cases hi) s w
  have hdir : i ≠ directionOp s w := by
    rintro rfl; rw [directionOp_slice] at hi; cases hi
  have hspeed : i ≠ speedOp w.rxValid w.rxData := by
    rintro rfl; rw [speedOp_slice] at hi; cases hi
  rw [select_eq]
  cases w.rst <;> simp [hreset, hdrop, hdir, hspeed, eq_comm (a := i)]

/-- In the wait the scheduler's operation depends on the tick and `wait_cnt`. -/
theorem schedulerOp_of_wait (s : State) (w : In12) (hp : s.phase = .wait) :
    schedulerOp s w =
      if w.tick then if s.waitCnt.toNat ≤ 1 then .waitEnd else .waitCount else .waitHold := by
  simp only [schedulerOp, hp]

/-- The scheduler's operation is ON exactly in `PH_ON`. -/
theorem schedulerOp_eq_on (s : State) (w : In12) : schedulerOp s w = .on ↔ s.phase = .on := by
  cases hp : s.phase with
  | wait => rw [schedulerOp_of_wait s w hp]; split <;> (try split) <;> simp
  | on | off | adv => simp [schedulerOp, hp]

/-- The scheduler's operation is OFF exactly in `PH_OFF`. -/
theorem schedulerOp_eq_off (s : State) (w : In12) : schedulerOp s w = .off ↔ s.phase = .off := by
  cases hp : s.phase with
  | wait => rw [schedulerOp_of_wait s w hp]; split <;> (try split) <;> simp
  | on | off | adv => simp [schedulerOp, hp]

/-- The scheduler's operation is WAIT_COUNT exactly on a tick of the wait that is not the last. -/
theorem schedulerOp_eq_waitCount (s : State) (w : In12) :
    schedulerOp s w = .waitCount ↔ s.phase = .wait ∧ w.tick = true ∧ 2 ≤ s.waitCnt.toNat := by
  cases hp : s.phase with
  | wait =>
    have hlast : 2 ≤ s.waitCnt.toNat ↔ ¬ s.waitCnt.toNat ≤ 1 := by omega
    rw [schedulerOp_of_wait s w hp, hlast]
    split <;> (try split) <;> simp [*]
  | on | off | adv => simp [schedulerOp, hp]

/-- The scheduler's operation is WAIT_END exactly on the last tick of the wait. -/
theorem schedulerOp_eq_waitEnd (s : State) (w : In12) :
    schedulerOp s w = .waitEnd ↔ s.phase = .wait ∧ w.tick = true ∧ s.waitCnt.toNat ≤ 1 := by
  cases hp : s.phase with
  | wait => rw [schedulerOp_of_wait s w hp]; split <;> (try split) <;> simp [*]
  | on | off | adv => simp [schedulerOp, hp]

/-! ## Effects -/

/-- ON writes the ring, `wait_cnt` and `phase`. -/
theorem exec_on (s : State) :
    exec .on s =
      .next { s with led := memWrite s s.index true, waitCnt := s.period, phase := .wait } := rfl

/-- OFF writes the ring and `phase`. -/
theorem exec_off (s : State) :
    exec .off s = .next { s with led := memWrite s s.index false, phase := .adv } := rfl

/-- WAIT_COUNT writes `wait_cnt`. -/
theorem exec_waitCount (s : State) :
    exec .waitCount s = .next { s with waitCnt := s.waitCnt - 1 } := rfl

/-- WAIT_END writes `wait_cnt` and `phase`. -/
theorem exec_waitEnd (s : State) :
    exec .waitEnd s = .next { s with waitCnt := 0, phase := .off } := rfl

/-- `MemWrite` in the ring, as the two reading clauses of 40_ring.md R90 and R91. -/
theorem memWrite_level_same_and_other (s : State) (pos : Nat) (v : Bool) (h : pos < s.cfg.n) :
    (memWrite s pos v).level pos = v ∧
      ∀ a, a ≠ pos → (memWrite s pos v).level a = s.led.level a :=
  ⟨by rw [memWrite_level s pos pos v h, if_pos rfl],
   fun a ha => by rw [memWrite_level s pos a v h, if_neg ha]⟩

/-- Taking one from a counter that is not 0 does not wrap. -/
theorem toNat_sub_one (v : Word) (h : 1 ≤ v.toNat) : (v - 1).toNat = v.toNat - 1 :=
  BitVec.toNat_sub_of_le (by simpa [BitVec.le_def] using h)

/-! ## One cycle -/

/-- No operation of another slice writes the scheduler's registers (45_cycle.md R163). -/
theorem exec_keeps_schedulerRegs (i : Instr) (hi : i.slice = .direction ∨ i.slice = .speed)
    (s t : State) (h : exec i s = .next t) : schedulerRegs t = schedulerRegs s := by
  cases i with
  | reset | on | waitHold | waitCount | waitEnd | off | adv => simp [Instr.slice] at hi
  | flip | drop | dbCount | rearm | dirHold | invalid | stClear => cases h; rfl
  | faster | slower => cases h; split <;> rfl

/-- Neither does a list of them. -/
theorem execAll_keeps_schedulerRegs (is : List Instr)
    (his : ∀ i ∈ is, i.slice = .direction ∨ i.slice = .speed) (s t : State)
    (h : execAll is s = .next t) : schedulerRegs t = schedulerRegs s := by
  induction is generalizing s with
  | nil => cases h; rfl
  | cons i is ih =>
    obtain ⟨u, hu⟩ := exec_next i s
    rw [execAll_cons i is s u hu] at h
    have htail := ih (fun j hj => his j (List.mem_cons_of_mem i hj)) u h
    exact htail.trans (exec_keeps_schedulerRegs i (his i List.mem_cons_self) s u hu)

/-- Every operation after the scheduler's is of the direction or the speed slice. -/
theorem slice_of_mem_rest (s : State) (w : In12) (i : Instr)
    (hi : i ∈ dropOps s w ++ [directionOp s w, speedOp w.rxValid w.rxData]) :
    i.slice = .direction ∨ i.slice = .speed := by
  simp only [List.mem_append, List.mem_cons, List.not_mem_nil, or_false] at hi
  obtain hdrop | rfl | rfl := hi
  · by_cases hd : i = .drop
    · exact .inl (by rw [hd]; rfl)
    · exact absurd hdrop (not_mem_dropOps i hd s w)
  · exact .inl (directionOp_slice s w)
  · exact .inr (speedOp_slice _ _)

/-- The scheduler's registers after a cycle without reset are those that its operation leaves, since
the scheduler's operation comes first and no other one writes them. -/
theorem step_schedulerRegs (s u : State) (hl : s.cfg.legal) (hr : s.inputWord.rst = false)
    (hu : exec (schedulerOp s s.inputWord) s = .next u) :
    ∃ t, step s = .next t ∧ schedulerRegs t = schedulerRegs u := by
  obtain ⟨v, hv⟩ := execAll_next
    (dropOps s s.inputWord ++
      [directionOp s s.inputWord, speedOp s.inputWord.rxValid s.inputWord.rxData]) u
  refine ⟨v.endCycle, step_of_execAll s v hl ?_, ?_⟩
  · rw [select_eq, if_neg (by simp [hr]), execAll_cons _ _ _ _ hu, hv]
  · exact execAll_keeps_schedulerRegs _ (slice_of_mem_rest s s.inputWord) u v hv

/-! ## The obligations -/

/-- Settles O26: ON's row is that of `PH_ON`, and its ring write is read back cell by cell. -/
theorem onEffect : Obligations.OnEffect := by
  intro s w hindex
  obtain ⟨hlit, hothers⟩ := memWrite_level_same_and_other s s.index true hindex
  refine ⟨selectedBy_of_iff _ _ _ _ _ _ _ (selWord_matches_phase _ _ .on w) ?_,
    _, exec_on s, hlit, hothers, rfl⟩
  rw [mem_select_iff_schedulerOp .on rfl, schedulerOp_eq_on, and_true]

/-- Settles O27: OFF's row is that of `PH_OFF`, and its ring write is read back cell by cell. -/
theorem offEffect : Obligations.OffEffect := by
  intro s w hindex
  obtain ⟨hdark, hothers⟩ := memWrite_level_same_and_other s s.index false hindex
  refine ⟨selectedBy_of_iff _ _ _ _ _ _ _ (selWord_matches_phase _ _ .off w) ?_,
    _, exec_off s, hdark, hothers, rfl⟩
  rw [mem_select_iff_schedulerOp .off rfl, schedulerOp_eq_off, and_true]

/-- Settles O29: WAIT_COUNT and WAIT_END share a row, and `wait_cnt` decides between them. -/
theorem waitCountAndWaitEndEffect : Obligations.WaitCountAndWaitEndEffect := by
  intro s w
  have hmatch := selWord_matches_waitTick s.armed s.phase w
  refine ⟨selectedBy_of_iff _ _ _ _ _ _ _ hmatch ?_, selectedBy_of_iff _ _ _ _ _ _ _ hmatch ?_,
    fun hleft => ?_, exec_waitEnd s⟩
  · rw [mem_select_iff_schedulerOp .waitCount rfl, schedulerOp_eq_waitCount]
    simp only [and_assoc]
  · rw [mem_select_iff_schedulerOp .waitEnd rfl, schedulerOp_eq_waitEnd]
    simp only [and_assoc]
  · have hcount : (s.waitCnt - 1).toNat = s.waitCnt.toNat - 1 := toNat_sub_one _ (by omega)
    exact ⟨_, exec_waitCount s, hcount, by simp only [hcount]; omega, rfl⟩

/-- `INIT_PERIOD` of a legal configuration, loaded into the unsigned `wait_cnt`, is the same number
(00_scope.md R8, 10_state.md R29). -/
theorem toNat_ofInt_initPeriod (c : Config) (hl : c.legal) :
    ((BitVec.ofInt 32 c.initPeriod).toNat : Int) = c.initPeriod := by
  obtain ⟨-, ⟨hpos, hmin, hmax⟩, hstep, htop, -⟩ := hl
  rw [BitVec.toNat_ofInt]
  omega

/-- Settles O41: the reset state is in `PH_ON` with the cursor at 0 and a dark ring, so the first
cycle's scheduler operation is ON, and the other operations keep what it wrote. -/
theorem startLightsPositionZero : Obligations.StartLightsPositionZero := by
  intro c w hl hr
  have hring : 0 < c.n := by have := hl.1; omega
  have hon : schedulerOp { State.resetWith c with script := [w] } w = .on :=
    (schedulerOp_eq_on _ w).2 rfl
  obtain ⟨t, hstep, hregs⟩ :=
    step_schedulerRegs { State.resetWith c with script := [w] } _ hl hr (by
      rw [inputWord_cons _ w [] rfl, hon]; exact exec_on _)
  simp only [schedulerRegs, Prod.mk.injEq] at hregs
  obtain ⟨hphase, hwait, hindex, hled⟩ := hregs
  refine ⟨Memory.level_nil,
    (mem_select_iff_schedulerOp .on rfl _ w).2 ⟨hr, (schedulerOp_eq_on _ w).2 rfl⟩,
    t, hstep, fun a => ?_, ?_, hphase, hindex⟩
  · rw [hled, memWrite_level _ _ a true hring]
    by_cases ha : a = 0 <;> simp [ha]
  · rw [hwait]
    exact toNat_ofInt_initPeriod c hl

end Sys2Proof.Machine
end

section
/-!
PROOFS. The two word formats (30_encoding.md R70, R74, R75, R77): an input word and a selection word
are made of their parts, bit by bit.
-/

namespace Sys2Proof.Machine

/-! ## The input word -/

/-- The bits of the word of given fields: the byte below, the four event bits above. -/
theorem getLsbD_fieldsWord (f : InFields) (i : Nat) :
    f.word.getLsbD i = if i < 8 then f.rxData.getLsbD i
      else (BitVec.ofBool f.rst ++ BitVec.ofBool f.tick ++ BitVec.ofBool f.edgeEvt ++
        BitVec.ofBool f.rxValid : BitVec 4).getLsbD (i - 8) :=
  BitVec.getLsbD_append

/-- The four event bits, read back. -/
theorem nibble_getLsbD (r t e v : Bool) :
    let x : BitVec 4 := BitVec.ofBool r ++ BitVec.ofBool t ++ BitVec.ofBool e ++ BitVec.ofBool v
    x.getLsbD 3 = r ∧ x.getLsbD 2 = t ∧ x.getLsbD 1 = e ∧ x.getLsbD 0 = v := by
  cases r <;> cases t <;> cases e <;> cases v <;> decide

@[simp] theorem rst_fieldsWord (f : InFields) : In12.rst f.word = f.rst := by
  obtain ⟨h3, -⟩ := nibble_getLsbD f.rst f.tick f.edgeEvt f.rxValid
  exact (getLsbD_fieldsWord f 11).trans h3

@[simp] theorem tick_fieldsWord (f : InFields) : In12.tick f.word = f.tick := by
  obtain ⟨-, h2, -⟩ := nibble_getLsbD f.rst f.tick f.edgeEvt f.rxValid
  exact (getLsbD_fieldsWord f 10).trans h2

@[simp] theorem edgeEvt_fieldsWord (f : InFields) : In12.edgeEvt f.word = f.edgeEvt := by
  obtain ⟨-, -, h1, -⟩ := nibble_getLsbD f.rst f.tick f.edgeEvt f.rxValid
  exact (getLsbD_fieldsWord f 9).trans h1

@[simp] theorem rxValid_fieldsWord (f : InFields) : In12.rxValid f.word = f.rxValid := by
  obtain ⟨-, -, -, h0⟩ := nibble_getLsbD f.rst f.tick f.edgeEvt f.rxValid
  exact (getLsbD_fieldsWord f 8).trans h0

@[simp] theorem rxData_fieldsWord (f : InFields) : In12.rxData f.word = f.rxData := by
  apply BitVec.eq_of_getLsbD_eq
  intro i hi
  simp [In12.rxData, hi, getLsbD_fieldsWord]

/-- Settles O6: each field is read at the bits where the word holds it, and twelve bits are all there
are. -/
theorem inputWordRoundTrip : Obligations.InputWordRoundTrip := by
  refine ⟨fun f => ?_, fun w => ?_⟩
  · simp [In12.fields]
  · apply BitVec.eq_of_getLsbD_eq
    intro i hi
    obtain ⟨h3, h2, h1, h0⟩ := nibble_getLsbD w.rst w.tick w.edgeEvt w.rxValid
    rw [getLsbD_fieldsWord]
    split
    · simp [In12.fields, In12.rxData, *]
    · obtain rfl | rfl | rfl | rfl : i = 8 ∨ i = 9 ∨ i = 10 ∨ i = 11 := by omega
      exacts [h0, h1, h2, h3]

/-! ## The selection word -/

/-- The bits of a selection word: the input word below, `armed` and `phase` above. -/
theorem getLsbD_selWord (a : Bool) (p : Phase) (w : In12) (i : Nat) :
    (selWord a p w).getLsbD i = if i < 12 then w.getLsbD i
      else (BitVec.ofBool a ++ p.code : BitVec 3).getLsbD (i - 12) :=
  BitVec.getLsbD_append

/-- The phase of a code, and the code of a phase, are inverse (30_encoding.md R77). -/
theorem phase_ofCode_code (p : Phase) : Phase.ofCode p.code = p := by cases p <;> rfl

theorem phase_code_ofCode (c : BitVec 2) : (Phase.ofCode c).code = c := by revert c; decide

/-- The three register bits, read back. -/
theorem registerBits_getLsbD (a : Bool) (c : BitVec 2) :
    let x : BitVec 3 := BitVec.ofBool a ++ c
    x.getLsbD 2 = a ∧ x.getLsbD 1 = c.getLsbD 1 ∧ x.getLsbD 0 = c.getLsbD 0 := by
  revert c
  cases a <;> decide

/-- Settles O7: each part is read at the bits where the word holds it, and fifteen bits are all there
are. -/
theorem selectionWordRoundTrip : Obligations.SelectionWordRoundTrip := by
  refine ⟨fun a p w => ⟨?_, ?_, ?_⟩, fun sw => ?_⟩
  · exact (getLsbD_selWord a p w 14).trans (registerBits_getLsbD a p.code).1
  · obtain ⟨-, h1, h0⟩ := registerBits_getLsbD a p.code
    have hcode : (selWord a p w).extractLsb' 12 2 = p.code := by
      apply BitVec.eq_of_getLsbD_eq
      intro i hi
      rw [BitVec.getLsbD_extractLsb', getLsbD_selWord]
      obtain rfl | rfl : i = 0 ∨ i = 1 := by omega
      · simpa using h0
      · simpa using h1
    rw [Sel15.phase, hcode, phase_ofCode_code]
  · apply BitVec.eq_of_getLsbD_eq
    intro i hi
    simp [Sel15.input, getLsbD_selWord, hi]
  · apply BitVec.eq_of_getLsbD_eq
    intro i hi
    obtain ⟨h2, h1, h0⟩ := registerBits_getLsbD sw.armed (sw.extractLsb' 12 2)
    rw [getLsbD_selWord, Sel15.phase, phase_code_ofCode]
    split
    · simp [Sel15.input, *]
    · obtain rfl | rfl | rfl : i = 12 ∨ i = 13 ∨ i = 14 := by omega
      · simpa using h0
      · simpa using h1
      · simpa [Sel15.armed] using h2

end Sys2Proof.Machine
end

section
/-!
PROOFS. What the decoder answers (30_encoding.md R71 to R75): when each operation's row accepts a
word, that an operation is decoded exactly from the words with its own bits, and the operations of one
cycle, slice by slice.
-/

namespace Sys2Proof.Machine

/-! ## Matching: which cycles have the bits of each operation -/

/-- The high bits of the rows that look at no byte and that no earlier lemma covers. -/
theorem nibble_otherRows (a : Bool) (p : Phase) (x : BitVec 4) :
    let h : BitVec 7 := BitVec.ofBool a ++ p.code ++ x
    (h &&& 0x08#7 = 0x08#7 ↔ x.getLsbD 3 = true) ∧
    (h &&& 0x3C#7 = 0x10#7 ↔ x.getLsbD 3 = false ∧ p = .wait ∧ x.getLsbD 2 = false) ∧
    (h &&& 0x4A#7 = 0x02#7 ↔ x.getLsbD 3 = false ∧ a = false ∧ x.getLsbD 1 = true) ∧
    (h &&& 0x4A#7 = 0x40#7 ↔ x.getLsbD 3 = false ∧ a = true ∧ x.getLsbD 1 = false) ∧
    (h &&& 0x4C#7 = 0x00#7 ↔ x.getLsbD 3 = false ∧ a = false ∧ x.getLsbD 2 = false) := by
  revert x
  cases a <;> cases p <;> decide

/-- RESET's row accepts the cycles with `rst = 1`. -/
theorem selWord_matches_reset (a : Bool) (p : Phase) (w : In12) :
    selWord a p w &&& 0x0800 = 0x0800 ↔ w.rst = true := by
  rw [selWord_and_eq_iff_high a p w _ _ (by decide) (by decide)]
  obtain ⟨hreset, -⟩ := nibble_otherRows a p (w.extractLsb' 8 4)
  simpa [In12.rst] using hreset

/-- WAIT_HOLD's row accepts the wait's cycles without a tick. -/
theorem selWord_matches_waitHold (a : Bool) (p : Phase) (w : In12) :
    selWord a p w &&& 0x3C00 = 0x1000 ↔ w.rst = false ∧ p = .wait ∧ w.tick = false := by
  rw [selWord_and_eq_iff_high a p w _ _ (by decide) (by decide)]
  obtain ⟨-, hhold, -⟩ := nibble_otherRows a p (w.extractLsb' 8 4)
  simpa [In12.rst, In12.tick] using hhold

/-- DROP's row accepts an edge in the cooldown. -/
theorem selWord_matches_drop (a : Bool) (p : Phase) (w : In12) :
    selWord a p w &&& 0x4A00 = 0x0200 ↔ w.rst = false ∧ a = false ∧ w.edgeEvt = true := by
  rw [selWord_and_eq_iff_high a p w _ _ (by decide) (by decide)]
  obtain ⟨-, -, hdrop, -⟩ := nibble_otherRows a p (w.extractLsb' 8 4)
  simpa [In12.rst, In12.edgeEvt] using hdrop

/-- DIR_HOLD's first row accepts the armed cycles without an edge. -/
theorem selWord_matches_holdArmed (a : Bool) (p : Phase) (w : In12) :
    selWord a p w &&& 0x4A00 = 0x4000 ↔ w.rst = false ∧ a = true ∧ w.edgeEvt = false := by
  rw [selWord_and_eq_iff_high a p w _ _ (by decide) (by decide)]
  obtain ⟨-, -, -, hhold, -⟩ := nibble_otherRows a p (w.extractLsb' 8 4)
  simpa [In12.rst, In12.edgeEvt] using hhold

/-- DIR_HOLD's second row accepts the cooldown's cycles without a tick. -/
theorem selWord_matches_holdCooldown (a : Bool) (p : Phase) (w : In12) :
    selWord a p w &&& 0x4C00 = 0x0000 ↔ w.rst = false ∧ a = false ∧ w.tick = false := by
  rw [selWord_and_eq_iff_high a p w _ _ (by decide) (by decide)]
  obtain ⟨-, -, -, -, hhold⟩ := nibble_otherRows a p (w.extractLsb' 8 4)
  simpa [In12.rst, In12.tick] using hhold

/-- A row that fixes the byte `b` accepts the cycles that present it. -/
theorem selWord_matches_command (a : Bool) (p : Phase) (w : In12) (b : Byte) :
    selWord a p w &&& 0x09FF = 0x0100 ||| b.setWidth 15 ↔
      w.rst = false ∧ w.rxValid = true ∧ w.rxData = b := by
  have hlow : (0x0100 ||| b.setWidth 15 : Sel15).extractLsb' 0 8 = b := by revert b; decide
  have hhigh : (0x0100 ||| b.setWidth 15 : Sel15).extractLsb' 8 7 = 0x01#7 := by revert b; decide
  have hbyte : (w.rxData &&& 0xFF#8 == b) = (w.rxData == b) := by
    rw [show (0xFF#8 : Byte) = BitVec.allOnes 8 from rfl, BitVec.and_allOnes]
  have hrow := Row.accepts_append ⟨0x0100 ||| b.setWidth 15, 0x09FF, fun _ => .reset⟩
    (BitVec.ofBool a ++ p.code ++ w.extractLsb' 8 4) w.rxData
  have hbits := (nibble_speed a p (w.extractLsb' 8 4)).1
  rw [← selWord_split, Row.accepts, hlow, hhigh] at hrow
  simp only [show (0x09FF : Sel15).extractLsb' 8 7 = 0x09#7 from by decide,
    show (0x09FF : Sel15).extractLsb' 0 8 = 0xFF#8 from by decide, hbits, hbyte] at hrow
  rw [Bool.eq_iff_iff] at hrow
  simpa [In12.rst, In12.rxValid, and_assoc] using hrow

/-! ## Decoding, slice by slice -/

theorem slice_of_mem_schedulerOps (p : Phase) (t : Bool) :
    ∀ i ∈ schedulerOps p t, i.slice = .scheduler := by
  cases p <;> cases t <;> decide

theorem slice_of_mem_directionOps (a e t : Bool) :
    ∀ i ∈ directionOps a e t, i.slice = .direction := by
  cases a <;> cases e <;> cases t <;> decide

/-- RESET is decoded from the words with `rst = 1`, whose rows are no other operation's. -/
theorem mem_decode_reset (a : Bool) (p : Phase) (w : In12) :
    .reset ∈ decode (selWord a p w) ↔ w.rst = true := by
  have hsched : .reset ∉ schedulerOps p w.tick := fun h => by cases slice_of_mem_schedulerOps _ _ _ h
  have hdir : .reset ∉ directionOps a w.edgeEvt w.tick := fun h => by
    cases slice_of_mem_directionOps _ _ _ _ h
  have hspeed : .reset ≠ speedOp w.rxValid w.rxData := fun h => by
    have := speedOp_slice w.rxValid w.rxData
    rw [← h] at this
    cases this
  rw [decode_selWord]
  cases w.rst <;> simp [*]

/-- Of the scheduler slice a word without reset decodes to what its phase and tick select. -/
theorem mem_decode_of_scheduler (i : Instr) (hi : i.slice = .scheduler) (a : Bool) (p : Phase)
    (w : In12) : i ∈ decode (selWord a p w) ↔ w.rst = false ∧ i ∈ schedulerOps p w.tick := by
  have hreset : i ≠ .reset := by rintro rfl; cases hi
  have hdir : i ∉ directionOps a w.edgeEvt w.tick := fun h => by
    rw [slice_of_mem_directionOps _ _ _ _ h] at hi; cases hi
  have hspeed : i ≠ speedOp w.rxValid w.rxData := by
    rintro rfl; rw [speedOp_slice] at hi; cases hi
  rw [decode_selWord]
  cases w.rst <;> simp [*]

/-- Of the direction slice it decodes to what `armed`, the edge and the tick select. -/
theorem mem_decode_of_direction (i : Instr) (hi : i.slice = .direction) (a : Bool) (p : Phase)
    (w : In12) :
    i ∈ decode (selWord a p w) ↔ w.rst = false ∧ i ∈ directionOps a w.edgeEvt w.tick := by
  have hreset : i ≠ .reset := by rintro rfl; cases hi
  have hsched : i ∉ schedulerOps p w.tick := fun h => by
    rw [slice_of_mem_schedulerOps _ _ _ h] at hi; cases hi
  have hspeed : i ≠ speedOp w.rxValid w.rxData := by
    rintro rfl; rw [speedOp_slice] at hi; cases hi
  rw [decode_selWord]
  cases w.rst <;> simp [*]

/-- Of the speed slice it decodes to the one operation of its byte. -/
theorem mem_decode_of_speed (i : Instr) (hi : i.slice = .speed) (a : Bool) (p : Phase) (w : In12) :
    i ∈ decode (selWord a p w) ↔ w.rst = false ∧ speedOp w.rxValid w.rxData = i := by
  have hreset : i ≠ .reset := by rintro rfl; cases hi
  have hsched : i ∉ schedulerOps p w.tick := fun h => by
    rw [slice_of_mem_schedulerOps _ _ _ h] at hi; cases hi
  have hdir : i ∉ directionOps a w.edgeEvt w.tick := fun h => by
    rw [slice_of_mem_directionOps _ _ _ _ h] at hi; cases hi
  rw [decode_selWord]
  cases w.rst <;> simp [hreset, hsched, hdir, eq_comm (a := i)]

/-- The speed operation is FASTER exactly with the byte `0x2B`. -/
theorem speedOp_eq_faster (v : Bool) (d : Byte) : speedOp v d = .faster ↔ v = true ∧ d = 0x2B#8 := by
  cases v
  · simp [speedOp]
  · simp only [speedOp, if_true, decodeCommand, true_and]
    split <;> (try split) <;> simp [*]

/-- The speed operation is SLOWER exactly with the byte `0x2D`. -/
theorem speedOp_eq_slower (v : Bool) (d : Byte) : speedOp v d = .slower ↔ v = true ∧ d = 0x2D#8 := by
  cases v
  · simp [speedOp]
  · simp only [speedOp, if_true, decodeCommand, true_and]
    split
    · subst_vars; decide
    · split <;> simp [*]

/-- The scheduler operations of a phase and a tick, as conditions. -/
theorem mem_schedulerOps (p : Phase) (t : Bool) :
    (.on ∈ schedulerOps p t ↔ p = .on) ∧ (.waitHold ∈ schedulerOps p t ↔ p = .wait ∧ t = false) ∧
    (.waitCount ∈ schedulerOps p t ↔ p = .wait ∧ t = true) ∧
    (.waitEnd ∈ schedulerOps p t ↔ p = .wait ∧ t = true) ∧
    (.off ∈ schedulerOps p t ↔ p = .off) ∧ (.adv ∈ schedulerOps p t ↔ p = .adv) := by
  cases p <;> cases t <;> decide

/-- The direction operations of `armed`, an edge and a tick, as conditions. -/
theorem mem_directionOps (a e t : Bool) :
    (.flip ∈ directionOps a e t ↔ a = true ∧ e = true) ∧
    (.drop ∈ directionOps a e t ↔ a = false ∧ e = true) ∧
    (.dbCount ∈ directionOps a e t ↔ a = false ∧ t = true) ∧
    (.rearm ∈ directionOps a e t ↔ a = false ∧ t = true) ∧
    (.dirHold .armed ∈ directionOps a e t ↔ a = true ∧ e = false) ∧
    (.dirHold .cooldown ∈ directionOps a e t ↔ a = false ∧ t = false) := by
  cases a <;> cases e <;> cases t <;> decide

/-! ## Decoding and encoding -/

/-- A row's condition is the whole condition of a well-formed operation. -/
theorem iff_wf_and (i : Instr) (P Q : Prop) (hwf : i.wf = true) (h : Q ↔ P) :
    P ↔ i.wf = true ∧ Q := by simp [hwf, h]

/-- A cycle's word decodes to an operation exactly if the operation is well-formed and its own bits
are the word's. -/
theorem mem_decode_selWord_iff (i : Instr) (a : Bool) (p : Phase) (w : In12) :
    i ∈ decode (selWord a p w) ↔ i.wf = true ∧ selWord a p w &&& i.mask = i.matchBits := by
  obtain ⟨hon, hhold, hcount, hend, hoff, hadv⟩ := mem_schedulerOps p w.tick
  obtain ⟨hflip, hdrop, hdbCount, hrearm, hholdA, hholdC⟩ := mem_directionOps a w.edgeEvt w.tick
  cases i with
  | reset => rw [mem_decode_reset]; exact iff_wf_and _ _ _ rfl (selWord_matches_reset a p w)
  | on =>
    rw [mem_decode_of_scheduler _ rfl, hon]
    exact iff_wf_and _ _ _ rfl (selWord_matches_phase a p .on w)
  | waitHold =>
    rw [mem_decode_of_scheduler _ rfl, hhold]
    exact iff_wf_and _ _ _ rfl (selWord_matches_waitHold a p w)
  | waitCount =>
    rw [mem_decode_of_scheduler _ rfl, hcount]
    exact iff_wf_and _ _ _ rfl (selWord_matches_waitTick a p w)
  | waitEnd =>
    rw [mem_decode_of_scheduler _ rfl, hend]
    exact iff_wf_and _ _ _ rfl (selWord_matches_waitTick a p w)
  | off =>
    rw [mem_decode_of_scheduler _ rfl, hoff]
    exact iff_wf_and _ _ _ rfl (selWord_matches_phase a p .off w)
  | adv =>
    rw [mem_decode_of_scheduler _ rfl, hadv]
    exact iff_wf_and _ _ _ rfl (selWord_matches_phase a p .adv w)
  | flip =>
    rw [mem_decode_of_direction _ rfl, hflip]
    exact iff_wf_and _ _ _ rfl (selWord_matches_flip a p w)
  | drop =>
    rw [mem_decode_of_direction _ rfl, hdrop]
    exact iff_wf_and _ _ _ rfl (selWord_matches_drop a p w)
  | dbCount =>
    rw [mem_decode_of_direction _ rfl, hdbCount]
    exact iff_wf_and _ _ _ rfl (selWord_matches_cooldownTick a p w)
  | rearm =>
    rw [mem_decode_of_direction _ rfl, hrearm]
    exact iff_wf_and _ _ _ rfl (selWord_matches_cooldownTick a p w)
  | dirHold form =>
    rw [mem_decode_of_direction _ rfl]
    cases form with
    | armed => rw [hholdA]; exact iff_wf_and _ _ _ rfl (selWord_matches_holdArmed a p w)
    | cooldown => rw [hholdC]; exact iff_wf_and _ _ _ rfl (selWord_matches_holdCooldown a p w)
  | faster =>
    rw [mem_decode_of_speed _ rfl, speedOp_eq_faster]
    exact iff_wf_and _ _ _ rfl (selWord_matches_command a p w 0x2B#8)
  | slower =>
    rw [mem_decode_of_speed _ rfl, speedOp_eq_slower]
    exact iff_wf_and _ _ _ rfl (selWord_matches_command a p w 0x2D#8)
  | invalid b =>
    have hwf : (Instr.invalid b).wf = true ↔ b ≠ 0x2B#8 ∧ b ≠ 0x2D#8 := by simp [Instr.wf]
    have hbits : selWord a p w &&& (Instr.invalid b).mask = (Instr.invalid b).matchBits ↔ _ :=
      selWord_matches_command a p w b
    rw [mem_decode_of_speed _ rfl, speedOp_eq_invalid, hwf, hbits]
    constructor
    · rintro ⟨hr, hv, hd, hb⟩
      exact ⟨hb, hr, hv, hd⟩
    · rintro ⟨hb, hr, hv, hd⟩
      exact ⟨hr, hv, hd, hb⟩
  | stClear =>
    rw [mem_decode_of_speed _ rfl, speedOp_eq_stClear]
    exact iff_wf_and _ _ _ rfl (selWord_matches_noByte a p w)

/-- The same for every selection word, since each is some cycle's. -/
theorem mem_decode_iff (i : Instr) (sw : Sel15) :
    i ∈ decode sw ↔ i.wf = true ∧ sw &&& i.mask = i.matchBits := by
  rw [← selectionWordRoundTrip.2 sw]
  exact mem_decode_selWord_iff i _ _ _

/-- An operation's own bits lie in its mask. -/
theorem matchBits_and_mask (i : Instr) : i.matchBits &&& i.mask = i.matchBits := by
  cases i with
  | dirHold form => cases form <;> decide
  | invalid b => simp only [Instr.matchBits, Instr.mask]; revert b; decide
  | _ => decide

/-- A word is its bits under a mask and its bits outside it. -/
theorem and_or_and_not (sw mask : Sel15) : sw &&& mask ||| sw &&& ~~~mask = sw := by
  apply BitVec.eq_of_getLsbD_eq
  intro k hk
  simp only [BitVec.getLsbD_and, BitVec.getLsbD_or, BitVec.getLsbD_not, hk, decide_true, Bool.true_and]
  cases sw.getLsbD k <;> cases mask.getLsbD k <;> rfl

/-- Settles O1: an operation is decoded exactly from the words with its own bits, and its encodings are
those words. -/
theorem decodeEncodeAgree : Obligations.DecodeEncodeAgree := by
  refine ⟨fun i fill hwf => ?_, fun sw i hi => ?_⟩
  · exact (mem_decode_iff i _).2 ⟨hwf, Laws.encode_and_mask i (matchBits_and_mask i) fill⟩
  · obtain ⟨hwf, hbits⟩ := (mem_decode_iff i sw).1 hi
    exact ⟨hwf, by rw [encode, ← hbits, and_or_and_not]⟩

/-- Settles O5: a finite table over the 256 bytes. -/
theorem invalidRowsPartitionBytes : Obligations.InvalidRowsPartitionBytes := by
  unfold Obligations.InvalidRowsPartitionBytes
  decide

/-- Settles O8: the seven words of V-SEL, each decoded by the table. -/
theorem sampleWordsDecode : Obligations.SampleWordsDecode := by
  refine ⟨?_, ?_, ?_, ?_, ?_, ?_, ?_⟩ <;> decide

/-! ## The operations of one cycle -/

/-- The counter guard as conditions: four operations have one. -/
theorem counterGuard_iff (s : State) (i : Instr) :
    counterGuard s i = true ↔
      (i = .waitCount → 2 ≤ s.waitCnt.toNat) ∧ (i = .waitEnd → s.waitCnt.toNat ≤ 1) ∧
        (i = .dbCount → 2 ≤ s.dbCnt) ∧ (i = .rearm → s.dbCnt ≤ 1) := by
  cases i <;> simp [counterGuard, waitLeft, waitOver, cooldownLeft, cooldownOver]

/-- Settles O2: selecting is decoding and then the guards. -/
theorem performedIffRowMatches : Obligations.PerformedIffRowMatches := by
  intro s w i
  rw [select, List.mem_filter, sel, mem_decode_iff, counterGuard_iff, and_assoc]

/-- A line of the selection table, for an operation without a counter guard: it is performed in the
cycles that have its bits. -/
theorem selectedBy_of_matches (i : Instr) (s : State) (w : In12) (inWords : Prop)
    (hwf : i.wf = true) (hguard : counterGuard s i = true)
    (hmatch : selWord s.armed s.phase w &&& i.mask = i.matchBits ↔ inWords) :
    SelectedBy i s w i.matchBits i.mask inWords True := by
  refine selectedBy_of_iff _ _ _ _ _ _ _ hmatch ?_
  rw [select, List.mem_filter, sel, mem_decode_iff, hmatch]
  simp [hwf, hguard]

/-- What a cycle without reset performs. -/
theorem select_of_not_rst (s : State) (w : In12) (hr : w.rst = false) :
    select s w = schedulerOp s w :: (dropOps s w ++ [directionOp s w, speedOp w.rxValid w.rxData]) := by
  rw [select_eq, if_neg (by simp [hr])]

theorem slice_of_mem_dropOps (s : State) (w : In12) : ∀ i ∈ dropOps s w, i.slice = .direction := by
  intro i hi
  rw [dropOps] at hi
  split at hi <;> simp_all [Instr.slice]

/-- The dropped edge is the direction slice's. -/
theorem ofSlice_dropOps (s : State) (w : In12) (c : Slice) :
    ofSlice c (dropOps s w) = if c = .direction then dropOps s w else [] := by
  split
  · subst_vars
    exact List.filter_eq_self.2 fun i hi => by simpa using slice_of_mem_dropOps s w i hi
  · refine List.filter_eq_nil_iff.2 fun i hi => ?_
    have := slice_of_mem_dropOps s w i hi
    grind

/-- The operations of a cycle without reset, by slice. -/
theorem ofSlice_select (s : State) (w : In12) (hr : w.rst = false) :
    ofSlice .scheduler (select s w) = [schedulerOp s w] ∧
    ofSlice .direction (select s w) = dropOps s w ++ [directionOp s w] ∧
    ofSlice .speed (select s w) = [speedOp w.rxValid w.rxData] := by
  have hdrop := ofSlice_dropOps s w
  simp only [ofSlice] at hdrop
  rw [select_of_not_rst s w hr]
  simp [ofSlice, hdrop, schedulerOp_slice, directionOp_slice, speedOp_slice]

/-- DROP is performed exactly on an edge in the cooldown, in a cycle without reset. -/
theorem mem_select_drop (s : State) (w : In12) :
    .drop ∈ select s w ↔ w.rst = false ∧ s.armed = false ∧ w.edgeEvt = true := by
  have hline := selectedBy_of_matches .drop s w _ rfl rfl (selWord_matches_drop _ _ w)
  exact hline.1.trans (by rw [and_true]; exact hline.2)

/-- The one direction operation beside DROP is another one. -/
theorem directionOp_ne_drop (s : State) (w : In12) : directionOp s w ≠ .drop := by
  cases ha : s.armed with
  | true => rw [directionOp_of_armed s w ha]; split <;> simp
  | false => rw [directionOp_of_cooldown s w ha]; split <;> (try split) <;> simp

/-- Settles O3: the cycle's list holds one operation of each slice, and DROP beside the direction
operation. -/
theorem oneOperationPerSlice : Obligations.OneOperationPerSlice := by
  intro s w
  refine ⟨fun hr => by rw [select_eq, if_pos hr], fun hr => ?_⟩
  obtain ⟨hsched, hdir, hspeed⟩ := ofSlice_select s w hr
  have hreset : .reset ∉ select s w := by
    rw [select, List.mem_filter, sel, mem_decode_reset]
    simp [hr]
  have hdropOps : (dropOps s w).filter (fun i => i ≠ .drop) = [] := by
    rw [dropOps]; split <;> rfl
  refine ⟨hreset, by simp [hsched], by simp [hspeed], ?_, ?_⟩
  · rw [hdir, List.filter_append, hdropOps]
    simp [directionOp_ne_drop]
  · rw [mem_select_drop]
    simp [hr]

/-- Settles O4: of the decoded list the scheduler's and the direction's operations fall away. -/
theorem speedOperationIsCommand : Obligations.SpeedOperationIsCommand := by
  intro a p w hr
  have hsched : ofSlice .speed (schedulerOps p w.tick) = [] :=
    List.filter_eq_nil_iff.2 fun i hi => by simp [slice_of_mem_schedulerOps _ _ i hi]
  have hdir : ofSlice .speed (directionOps a w.edgeEvt w.tick) = [] :=
    List.filter_eq_nil_iff.2 fun i hi => by simp [slice_of_mem_directionOps _ _ _ i hi]
  simp only [ofSlice] at hsched hdir ⊢
  rw [decode_selWord, if_neg (by simp [hr]), List.filter_append, List.filter_append, hsched, hdir]
  simp only [List.nil_append, List.filter_singleton, speedOp_slice, decide_true]
  rfl

/-- Settles O28: each holding operation's row, and that its meaning is the same state. -/
theorem holdingOperationsWriteNothing : Obligations.HoldingOperationsWriteNothing := by
  intro s w
  exact ⟨selectedBy_of_matches .waitHold s w _ rfl rfl (selWord_matches_waitHold _ _ w),
    selectedBy_of_matches .drop s w _ rfl rfl (selWord_matches_drop _ _ w),
    selectedBy_of_matches (.dirHold .armed) s w _ rfl rfl (selWord_matches_holdArmed _ _ w),
    selectedBy_of_matches (.dirHold .cooldown) s w _ rfl rfl (selWord_matches_holdCooldown _ _ w),
    rfl, rfl, rfl, rfl⟩

/-- RESET writes the nine registers and leaves the model's own fields. -/
theorem exec_reset (s : State) : exec .reset s = .next (resetRegisters s) := rfl

/-- Settles O25: RESET's row, and the reset registers read one by one. -/
theorem resetEffect : Obligations.ResetEffect := by
  intro s w hl
  exact ⟨selectedBy_of_matches .reset s w _ rfl rfl (selWord_matches_reset _ _ w),
    fun hr => by rw [select_eq, if_pos hr],
    _, exec_reset s, toInt_ofInt_initPeriod s.cfg hl, Memory.level_nil, rfl⟩

end Sys2Proof.Machine
end

section
/-!
PROOFS. The step is the clock-cycle function (45_cycle.md R161, R163): each slice's operation writes
what that slice of the function gives, and the later slices read registers the earlier ones left
alone.
-/

namespace Sys2Proof.Machine

/-! ## The operations as writes of their slice -/

/-- What the scheduler slice writes. -/
def writeScheduler (s : State) (r : Memory × Word × Phase × Nat) : State :=
  { s with led := r.1, waitCnt := r.2.1, phase := r.2.2.1, index := r.2.2.2 }

/-- What the direction slice writes. -/
def writeDirection (s : State) (r : Direction × Bool × Nat) : State :=
  { s with direction := r.1, armed := r.2.1, dbCnt := r.2.2 }

/-- What the speed slice writes. -/
def writeSpeed (s : State) (r : Word × StCode) : State := { s with period := r.1, stCode := r.2 }

/-- Without reset the clock-cycle function is the three slices' writes. -/
theorem cycle_of_not_rst (s : State) (w : In12) (hr : w.rst = false) :
    cycle s w =
      writeSpeed (writeDirection (writeScheduler s (schedulerSlice s w)) (directionSlice s w))
        (speedSlice s w) := by
  rw [cycle, if_neg (by simp [hr])]
  rfl

/-- With reset it is the reset registers. -/
theorem cycle_of_rst (s : State) (w : In12) (hr : w.rst = true) : cycle s w = resetRegisters s := by
  rw [cycle, if_pos hr]
  rfl

/-! ## The rows of the three slices -/

/-- The scheduler slice, row by row: the operation and what the slice gives (44_scheduler.md R150,
41_cursor.md R101). -/
theorem scheduler_rows (s : State) (w : In12) :
    (s.phase = .on ∧ schedulerOp s w = .on ∧
      schedulerSlice s w = (memWrite s s.index true, s.period, .wait, s.index)) ∨
    (s.phase = .wait ∧ w.tick = false ∧ schedulerOp s w = .waitHold ∧
      schedulerSlice s w = (s.led, s.waitCnt, s.phase, s.index)) ∨
    (s.phase = .wait ∧ w.tick = true ∧ 2 ≤ s.waitCnt.toNat ∧ schedulerOp s w = .waitCount ∧
      schedulerSlice s w = (s.led, s.waitCnt - 1, s.phase, s.index)) ∨
    (s.phase = .wait ∧ w.tick = true ∧ s.waitCnt.toNat ≤ 1 ∧ schedulerOp s w = .waitEnd ∧
      schedulerSlice s w = (s.led, 0, .off, s.index)) ∨
    (s.phase = .off ∧ schedulerOp s w = .off ∧
      schedulerSlice s w = (memWrite s s.index false, s.waitCnt, .adv, s.index)) ∨
    (s.phase = .adv ∧ schedulerOp s w = .adv ∧
      schedulerSlice s w = (s.led, s.waitCnt, .on, advanceIndex s)) := by
  simp only [schedulerOp, schedulerSlice]
  cases s.phase with
  | wait =>
    cases w.tick with
    | false => simp
    | true =>
      by_cases h : s.waitCnt.toNat ≤ 1
      · simp [h]
      · have hleft : 2 ≤ s.waitCnt.toNat := by omega
        simp [h, hleft]
  | on | off | adv => simp

/-- The direction slice, row by row (42_direction.md R116). -/
theorem direction_rows (s : State) (w : In12) :
    (s.armed = true ∧ w.edgeEvt = true ∧ directionOp s w = .flip ∧
      directionSlice s w = (flipped s.direction, false, s.cfg.debounceMs)) ∨
    (s.armed = true ∧ w.edgeEvt = false ∧ directionOp s w = .dirHold .armed ∧
      directionSlice s w = directionRegs s) ∨
    (s.armed = false ∧ w.tick = false ∧ directionOp s w = .dirHold .cooldown ∧
      directionSlice s w = directionRegs s) ∨
    (s.armed = false ∧ w.tick = true ∧ 2 ≤ s.dbCnt ∧ directionOp s w = .dbCount ∧
      directionSlice s w = (s.direction, s.armed, s.dbCnt - 1)) ∨
    (s.armed = false ∧ w.tick = true ∧ s.dbCnt ≤ 1 ∧ directionOp s w = .rearm ∧
      directionSlice s w = (s.direction, true, 0)) := by
  simp only [directionOp, directionSlice, directionRegs]
  cases s.armed with
  | true => cases w.edgeEvt <;> simp
  | false =>
    cases w.tick with
    | false => simp
    | true =>
      by_cases h : s.dbCnt ≤ 1
      · simp [h]
      · have hleft : 2 ≤ s.dbCnt := by omega
        simp [h, hleft]

/-- What FASTER writes (43_speed.md R126). -/
def fasterWrite (s : State) : Word × StCode :=
  if periodInt s - s.cfg.step > s.cfg.minPeriod then
    (BitVec.ofInt 32 (periodInt s - s.cfg.step), .changed)
  else (BitVec.ofInt 32 s.cfg.minPeriod, .limit)

/-- What SLOWER writes (43_speed.md R127). -/
def slowerWrite (s : State) : Word × StCode :=
  if periodInt s + s.cfg.step < s.cfg.maxPeriod then
    (BitVec.ofInt 32 (periodInt s + s.cfg.step), .changed)
  else (BitVec.ofInt 32 s.cfg.maxPeriod, .limit)

/-- The speed slice, row by row (43_speed.md R130). -/
theorem speed_rows (s : State) (w : In12) :
    (w.rxValid = false ∧ speedOp w.rxValid w.rxData = .stClear ∧
      speedSlice s w = (s.period, .none)) ∨
    (w.rxValid = true ∧ w.rxData = 0x2B#8 ∧ speedOp w.rxValid w.rxData = .faster ∧
      speedSlice s w = fasterWrite s) ∨
    (w.rxValid = true ∧ w.rxData = 0x2D#8 ∧ speedOp w.rxValid w.rxData = .slower ∧
      speedSlice s w = slowerWrite s) ∨
    (w.rxValid = true ∧ w.rxData ≠ 0x2B#8 ∧ w.rxData ≠ 0x2D#8 ∧
      speedOp w.rxValid w.rxData = .invalid w.rxData ∧ speedSlice s w = (s.period, .invalid)) := by
  simp only [speedOp, decodeCommand, speedSlice, fasterWrite, slowerWrite]
  cases w.rxValid with
  | false => simp
  | true =>
    by_cases hplus : w.rxData = 0x2B#8
    · simp [hplus]
    · by_cases hminus : w.rxData = 0x2D#8
      · simp [hminus]
      · simp [hplus, hminus]

/-! ## One operation after another -/

/-- ADV writes `index` and `phase`. -/
theorem exec_adv (s : State) :
    exec .adv s = .next { s with index := advanceIndex s, phase := .on } := rfl

/-- The scheduler's operation writes what its slice gives. -/
theorem exec_schedulerOp (s : State) (w : In12) :
    exec (schedulerOp s w) s = .next (writeScheduler s (schedulerSlice s w)) := by
  obtain ⟨-, hop, hrow⟩ | ⟨-, -, hop, hrow⟩ | ⟨-, -, -, hop, hrow⟩ | ⟨-, -, -, hop, hrow⟩ |
    ⟨-, hop, hrow⟩ | ⟨-, hop, hrow⟩ := scheduler_rows s w <;> rw [hop, hrow] <;> rfl

/-- The direction operation writes what its slice gives on the start-of-cycle registers, which an
earlier write of another slice leaves. -/
theorem exec_directionOp (s u : State) (w : In12) (hregs : directionRegs u = directionRegs s)
    (hcfg : u.cfg = s.cfg) :
    exec (directionOp s w) u = .next (writeDirection u (directionSlice s w)) := by
  have ⟨hd, ha, hk⟩ : u.direction = s.direction ∧ u.armed = s.armed ∧ u.dbCnt = s.dbCnt := by
    simpa [directionRegs] using hregs
  obtain ⟨-, -, hop, hrow⟩ | ⟨-, -, hop, hrow⟩ | ⟨-, -, hop, hrow⟩ | ⟨-, -, -, hop, hrow⟩ |
    ⟨-, -, -, hop, hrow⟩ := direction_rows s w
  · rw [hop, hrow, exec_flip, ← hd, ← hcfg]; rfl
  · rw [hop, hrow, ← hregs]; rfl
  · rw [hop, hrow, ← hregs]; rfl
  · rw [hop, hrow, exec_dbCount, ← hd, ← ha, ← hk]; rfl
  · rw [hop, hrow, exec_rearm, ← hd]; rfl

/-- FASTER writes `period` and `st_code`. -/
theorem exec_faster (s : State) : exec .faster s = .next (writeSpeed s (fasterWrite s)) := by
  have hstays : fasterStays s = decide (periodInt s - s.cfg.step > s.cfg.minPeriod) := rfl
  simp only [exec, execFaster, hstays, decide_eq_true_eq, fasterWrite]
  by_cases h : periodInt s - s.cfg.step > s.cfg.minPeriod
  · rw [if_pos h, if_pos h]; rfl
  · rw [if_neg h, if_neg h]; rfl

/-- SLOWER writes `period` and `st_code`. -/
theorem exec_slower (s : State) : exec .slower s = .next (writeSpeed s (slowerWrite s)) := by
  have hstays : slowerStays s = decide (periodInt s + s.cfg.step < s.cfg.maxPeriod) := rfl
  simp only [exec, execSlower, hstays, decide_eq_true_eq, slowerWrite]
  by_cases h : periodInt s + s.cfg.step < s.cfg.maxPeriod
  · rw [if_pos h, if_pos h]; rfl
  · rw [if_neg h, if_neg h]; rfl

/-- FASTER and SLOWER read the period and the parameters only. -/
theorem fasterWrite_and_slowerWrite_congr (s u : State) (hperiod : u.period = s.period)
    (hcfg : u.cfg = s.cfg) : fasterWrite u = fasterWrite s ∧ slowerWrite u = slowerWrite s := by
  simp only [fasterWrite, slowerWrite, periodInt, hperiod, hcfg]
  exact ⟨rfl, rfl⟩

/-- The speed operation writes what its slice gives on the start-of-cycle period. -/
theorem exec_speedOp (s u : State) (w : In12) (hperiod : u.period = s.period) (hcfg : u.cfg = s.cfg) :
    exec (speedOp w.rxValid w.rxData) u = .next (writeSpeed u (speedSlice s w)) := by
  obtain ⟨hfaster, hslower⟩ := fasterWrite_and_slowerWrite_congr s u hperiod hcfg
  obtain ⟨-, hop, hrow⟩ | ⟨-, -, hop, hrow⟩ | ⟨-, -, hop, hrow⟩ | ⟨-, -, -, hop, hrow⟩ :=
    speed_rows s w
  · rw [hop, hrow, ← hperiod]; rfl
  · rw [hop, hrow, exec_faster, hfaster]
  · rw [hop, hrow, exec_slower, hslower]
  · rw [hop, hrow, ← hperiod]; rfl

/-- DROP writes nothing. -/
theorem execAll_dropOps (s u : State) (w : In12) (is : List Instr) :
    execAll (dropOps s w ++ is) u = execAll is u := by
  rw [dropOps]
  split <;> rfl

/-- The operations of a cycle, one after another, give the clock-cycle function. -/
theorem execAll_select (s : State) (w : In12) : execAll (select s w) s = .next (cycle s w) := by
  cases hr : w.rst with
  | true =>
    rw [select_eq, if_pos hr, execAll_cons _ _ _ _ (exec_reset s), cycle_of_rst s w hr]
    rfl
  | false =>
    have hdir := exec_directionOp s (writeScheduler s (schedulerSlice s w)) w rfl rfl
    have hspeed := exec_speedOp s
      (writeDirection (writeScheduler s (schedulerSlice s w)) (directionSlice s w)) w rfl rfl
    rw [select_of_not_rst s w hr, execAll_cons _ _ _ _ (exec_schedulerOp s w), execAll_dropOps,
      execAll_cons _ _ _ _ hdir, execAll_cons _ _ _ _ hspeed, cycle_of_not_rst s w hr]
    rfl

/-! ## The step -/

/-- Settles O11: the cycle's operations give the clock-cycle function, and the cycle ends. -/
theorem stepIsCycleFunction : Obligations.StepIsCycleFunction := fun s hl =>
  step_of_execAll s _ hl (execAll_select s s.inputWord)

/-- A step answers exactly in a legal configuration, and then the clock-cycle function. -/
theorem step_eq_next_iff (s t : State) :
    step s = .next t ↔ s.cfg.legal ∧ t = (cycle s s.inputWord).endCycle := by
  constructor
  · intro h
    obtain ⟨hl, -⟩ := step_eq_next s t h
    rw [stepIsCycleFunction s hl] at h
    cases h
    exact ⟨hl, rfl⟩
  · rintro ⟨hl, rfl⟩
    exact stepIsCycleFunction s hl

/-- The clock-cycle function leaves the model's own fields. -/
theorem cycle_model_fields (s : State) (w : In12) :
    (cycle s w).cfg = s.cfg ∧ (cycle s w).script = s.script ∧ (cycle s w).cycleNo = s.cycleNo :=
  execAll_model_fields _ _ _ (execAll_select s w)

/-- Settles O9: the selection is the decoded word under the guards, and the cycle ends. -/
theorem stepRunsDecodedOperations : Obligations.StepRunsDecodedOperations := fun s t hl h =>
  step_of_execAll s t hl h

/-- Settles O10: the placed word is the selection word of the next cycle, and no guard reads what
placing writes. -/
theorem placedWordIsRun : Obligations.PlacedWordIsRun := by
  intro s t sw hl h
  have hguard : counterGuard (placeWord s sw) = counterGuard s := by
    funext i; cases i <;> rfl
  have hsel : select (placeWord s sw) (placeWord s sw).inputWord =
      (decode sw).filter (counterGuard s) := by
    rw [select, sel, inputWord_cons _ sw.input s.script.tail rfl, hguard]
    exact congrArg (fun x => (decode x).filter (counterGuard s)) (selectionWordRoundTrip.2 sw)
  exact step_of_execAll (placeWord s sw) t hl (by rw [hsel]; exact h)

/-- Settles O12: a legal configuration's step performs the cycle, another's is refused. -/
theorem stepIsTotal : Obligations.StepIsTotal :=
  ⟨fun s w hl => ⟨_, stepIsCycleFunction { s with script := [w] } hl⟩,
   fun _ hl => if_neg hl⟩

/-- Settles O13: no operation writes the model's own fields, and the end of the cycle takes one word. -/
theorem parametersNeverChange : Obligations.ParametersNeverChange := by
  intro s t h
  obtain ⟨-, rfl⟩ := (step_eq_next_iff s t).1 h
  obtain ⟨hcfg, hscript, hno⟩ := cycle_model_fields s s.inputWord
  exact ⟨hcfg, congrArg List.tail hscript, congrArg (· + 1) hno⟩

end Sys2Proof.Machine
end

section
/-!
PROOFS. The arithmetic of the model (00_scope.md R9, R13; 41_cursor.md R100 to R105; 43_speed.md R126,
R127, R131): the 32-bit sums of the speed rules are exact, the widths suffice, and the cursor's
successor is addition modulo `N`.
-/

namespace Sys2Proof.Machine

/-! ## The constraints on the parameters -/

/-- What the proofs use of 00_scope.md R8, by name. -/
theorem legal_bounds (c : Config) (hl : c.legal) :
    1 ≤ c.minPeriod ∧ 1 ≤ c.step ∧ c.maxPeriod + c.step ≤ 2 ^ 31 - 1 ∧ 1 ≤ c.debounceMs := by
  obtain ⟨-, ⟨hmin, -, -⟩, hstep, htop, hdebounce, -⟩ := hl
  exact ⟨hmin, hstep, htop, hdebounce⟩

/-! ## Words of 32 bits -/

/-- An integer of 32 signed bits is its own reading. -/
theorem toInt_ofInt_word (p : Int) (hlow : -2 ^ 31 ≤ p) (hhigh : p < 2 ^ 31) :
    (BitVec.ofInt 32 p).toInt = p :=
  BitVec.toInt_ofInt_eq_self (by decide) (by omega) (by omega)

/-- A word's signed reading is one of 32 bits. -/
theorem word_toInt_bounds (v : Word) : -2 ^ 31 ≤ v.toInt ∧ v.toInt < 2 ^ 31 :=
  ⟨BitVec.le_toInt v, BitVec.toInt_lt⟩

/-- A word that is not negative reads the same unsigned. -/
theorem word_toNat_eq_toInt (v : Word) (h : 0 ≤ v.toInt) : (v.toNat : Int) = v.toInt := by
  rw [BitVec.toInt_eq_toNat_cond] at h ⊢
  split at h <;> omega

/-- Settles O24: `STEP` and the period are small enough that no sum or difference leaves 32 signed
bits. -/
theorem pwBitArithmeticIsExact : Obligations.PwBitArithmeticIsExact := by
  rintro s ⟨⟨-, ⟨hpos, hmin, hmax⟩, hstep, htop, -⟩, -, ⟨hlow, hhigh⟩, -⟩
  have hread : (BitVec.ofInt 32 s.cfg.step).toInt = s.cfg.step :=
    toInt_ofInt_word _ (by omega) (by omega)
  rw [periodInt] at hlow hhigh
  constructor
  · rw [BitVec.toInt_sub, hread]
    exact Int.bmod_eq_of_le (by omega) (by omega)
  · rw [BitVec.toInt_add, hread]
    exact Int.bmod_eq_of_le (by omega) (by omega)

/-- Settles O23: a number is below two to its bit length. -/
theorem registersFitTheirWidths : Obligations.RegistersFitTheirWidths := by
  rintro s ⟨⟨hn, -, -, -, hdb, -⟩, hindex, -, ⟨-, hcount⟩, -⟩
  have hring : s.cfg.n ≤ 2 ^ s.cfg.indexWidth := by
    have hlog : s.cfg.n - 1 < 2 ^ (Nat.log2 (s.cfg.n - 1) + 1) := Nat.lt_log2_self
    have hmono : 2 ^ (Nat.log2 (s.cfg.n - 1) + 1) ≤ 2 ^ s.cfg.indexWidth :=
      Nat.pow_le_pow_right (by decide) (le_max_right _ _)
    omega
  have hdebounce : s.cfg.debounceMs < 2 ^ s.cfg.debounceWidth :=
    Nat.lt_log2_self.trans_le (Nat.pow_le_pow_right (by decide) (le_max_right _ _))
  exact ⟨hindex.trans_le hring, hcount.trans_lt hdebounce, hring, hdebounce⟩

/-! ## The speed rules over the integers -/

/-- FASTER's write read as an integer, and its report. -/
theorem fasterWrite_eq (s : State) (hl : s.cfg.legal) :
    (fasterWrite s).1.toInt = max s.cfg.minPeriod (s.period.toInt - s.cfg.step) ∧
    (fasterWrite s).2 =
      (if s.period.toInt - s.cfg.step > s.cfg.minPeriod then .changed else .limit) := by
  obtain ⟨-, ⟨hpos, hmin, hmax⟩, hstep, htop, -⟩ := hl
  obtain ⟨-, hword⟩ := word_toInt_bounds s.period
  rw [fasterWrite, periodInt]
  split
  · rw [max_eq_right (by omega)]
    exact ⟨toInt_ofInt_word _ (by omega) (by omega), rfl⟩
  · rw [max_eq_left (by omega)]
    exact ⟨toInt_ofInt_word _ (by omega) (by omega), rfl⟩

/-- SLOWER's write read as an integer, and its report. -/
theorem slowerWrite_eq (s : State) (hl : s.cfg.legal) :
    (slowerWrite s).1.toInt = min s.cfg.maxPeriod (s.period.toInt + s.cfg.step) ∧
    (slowerWrite s).2 =
      (if s.period.toInt + s.cfg.step < s.cfg.maxPeriod then .changed else .limit) := by
  obtain ⟨-, ⟨hpos, hmin, hmax⟩, hstep, htop, -⟩ := hl
  obtain ⟨hword, -⟩ := word_toInt_bounds s.period
  rw [slowerWrite, periodInt]
  split
  · rw [min_eq_right (by omega)]
    exact ⟨toInt_ofInt_word _ (by omega) (by omega), rfl⟩
  · rw [min_eq_left (by omega)]
    exact ⟨toInt_ofInt_word _ (by omega) (by omega), rfl⟩

/-- Settles O33: FASTER's row, and its write over the integers. -/
theorem fasterEffect : Obligations.FasterEffect := by
  intro s w hl
  obtain ⟨hperiod, hreport⟩ := fasterWrite_eq s hl
  exact ⟨selectedBy_of_matches .faster s w _ rfl rfl (selWord_matches_command _ _ w 0x2B#8),
    _, exec_faster s, hperiod, hreport, rfl⟩

/-- Settles O34: SLOWER's row, and its write over the integers. -/
theorem slowerEffect : Obligations.SlowerEffect := by
  intro s w hl
  obtain ⟨hperiod, hreport⟩ := slowerWrite_eq s hl
  exact ⟨selectedBy_of_matches .slower s w _ rfl rfl (selWord_matches_command _ _ w 0x2D#8),
    _, exec_slower s, hperiod, hreport, rfl⟩

/-! ## The cursor -/

/-- Settles O53: the four cases, and that they stay in the ring. -/
theorem successorByCases : Obligations.SuccessorByCases := by
  intro n i hn hi
  exact ⟨fun h => if_pos h, fun h => if_neg h, fun h => if_pos h, fun h => if_neg h,
    fun d => next_lt n i d hi⟩

/-- Settles O54: each successor by its two cases. -/
theorem successorsAreInverse : Obligations.SuccessorsAreInverse := by
  intro n i hn hi
  have hforward : next n i .forward = (i + 1) % n := by
    rw [next]
    split
    · rw [show i + 1 = n by omega, Nat.mod_self]
    · rw [Nat.mod_eq_of_lt (by omega)]
  have hbackward : next n i .backward = (i + n - 1) % n := by
    rw [next]
    split
    · rw [Nat.mod_eq_of_lt (by omega)]; omega
    · rw [show i + n - 1 = (i - 1) + n by omega, Nat.add_mod_right, Nat.mod_eq_of_lt (by omega)]
  refine ⟨hforward, hbackward, ?_, ?_⟩
  · by_cases hlast : i = n - 1
    · simp [next, hlast]
    · simp [next, hlast]
  · by_cases hfirst : i = 0
    · simp [next, hfirst]
    · have hinner : i - 1 ≠ n - 1 := by omega
      simp only [next, hfirst, hinner, if_false]
      omega

/-- How far one advance goes in a direction. -/
def stride : Direction → Int
  | .forward => 1
  | .backward => -1

/-- The successor is addition of the stride modulo `N` (41_cursor.md R103). -/
theorem next_eq_emod (n i : Nat) (d : Direction) (hi : i < n) :
    (next n i d : Int) = (i + stride d) % n := by
  cases d with
  | forward =>
    simp only [next, stride]
    split
    · rw [show (i : Int) + 1 = n by omega, Int.emod_self]; rfl
    · rw [Int.emod_eq_of_lt (by omega) (by omega)]; rfl
  | backward =>
    simp only [next, stride]
    split
    · rw [show (i : Int) + -1 = (n - 1) - n by omega, Int.sub_emod_right,
        Int.emod_eq_of_lt (by omega) (by omega)]
      omega
    · rw [Int.emod_eq_of_lt (by omega) (by omega)]; omega

/-- The cursor of `k` advances in one direction. -/
def walk (n : Nat) (d : Direction) (k p : Nat) : Nat := (fun i => next n i d)^[k] p

theorem walk_succ (n : Nat) (d : Direction) (k p : Nat) :
    walk n d (k + 1) p = walk n d k (next n p d) := rfl

/-- A walk stays in the ring. -/
theorem walk_lt (n : Nat) (d : Direction) (k p : Nat) (hp : p < n) : walk n d k p < n := by
  induction k generalizing p with
  | zero => exact hp
  | succ k ih => exact ih _ (next_lt n p d hp)

/-- A walk goes its strides modulo `N` (41_cursor.md R104). -/
theorem walk_eq_emod (n : Nat) (d : Direction) (k p : Nat) (hp : p < n) :
    (walk n d k p : Int) = (p + k * stride d) % n := by
  induction k generalizing p with
  | zero => rw [Int.emod_eq_of_lt (by simp) (by simpa using hp)]; simp [walk]
  | succ k ih =>
    rw [walk_succ, ih _ (next_lt n p d hp), next_eq_emod n p d hp, Int.emod_add_emod]
    push_cast
    ring_nf

/-- Settles O55: the forward walk and then the backward one, each by its strides. -/
theorem cursorWalksTheRing : Obligations.CursorWalksTheRing := by
  intro n p hn hp
  refine ⟨fun a b => ?_, fun k => ⟨?_, ?_⟩⟩
  · have hforward := walk_eq_emod n .forward a p hp
    have hback := walk_eq_emod n .backward b _ (walk_lt n .forward a p hp)
    rw [hforward, Int.emod_add_emod] at hback
    refine hback.trans ?_
    simp only [stride]
    ring_nf
  · have hwalk := walk_eq_emod n .forward k 0 (by omega)
    refine Int.ofNat_inj.1 (hwalk.trans ?_)
    simp [stride]
  · have hwalk := walk_eq_emod n .backward k 0 (by omega)
    refine hwalk.trans ?_
    simp [stride]

/-- Settles O30: ADV's row is that of `PH_ADV`, and the successor is defined in the ring. -/
theorem advEffect : Obligations.AdvEffect := by
  intro s w hindex
  refine ⟨selectedBy_of_matches .adv s w _ rfl rfl (selWord_matches_phase _ _ .adv w), ?_,
    next_lt _ _ _ hindex⟩
  rw [exec_adv, advanceIndex_of_lt s hindex]

/-! ## A cursor outside the ring -/

/-- A ring of given levels has no cell outside it. -/
theorem ofLevels_lt (n : Nat) (f : Nat → Bool) : ∀ c ∈ Memory.ofLevels n f, c.1 < n := by
  intro c hc
  simp only [Memory.ofLevels, List.mem_map, List.mem_filter, List.mem_range] at hc
  obtain ⟨a, ⟨ha, -⟩, rfl⟩ := hc
  exact ha

/-- `MemWrite` outside the ring leaves free values in a canonical ring. -/
theorem memWrite_outside (s : State) (pos : Nat) (v : Bool) (h : s.cfg.n ≤ pos) :
    (memWrite s pos v).wf ∧ ∀ c ∈ memWrite s pos v, c.1 < s.cfg.n := by
  rw [memWrite, if_neg (by omega)]
  exact ⟨Memory.wf_ofLevels _ _, ofLevels_lt _ _⟩

/-- Settles O36: the ring's cells are free but canonical, the cursor free but within its width. -/
theorem cursorOutsideRingStillRuns : Obligations.CursorOutsideRingStillRuns := by
  intro s hindex
  obtain ⟨hwfOn, hltOn⟩ := memWrite_outside s s.index true hindex
  obtain ⟨hwfOff, hltOff⟩ := memWrite_outside s s.index false hindex
  refine ⟨⟨_, exec_on s, hwfOn, hltOn, rfl⟩, ⟨_, exec_off s, hwfOff, hltOff, rfl⟩,
    _, exec_adv s, ?_, rfl⟩
  simp only [advanceIndex, if_neg (show ¬ s.index < s.cfg.n by omega)]
  exact Nat.mod_lt _ (Nat.two_pow_pos _)

/-! ## Ports and scripts -/

/-- Settles O56: the line port lists the levels position by position, the others are registers. -/
theorem portsShowRegisters : Obligations.PortsShowRegisters := by
  intro s
  refine ⟨by simp [ports, ledPort], fun i hi => ?_, rfl, ?_, rfl, rfl⟩
  · simp [ports, ledPort, hi]
  · simp [ports, stValid]

/-- Settles O57: the listed words, each evaluated. -/
theorem scriptItemsEncode : Obligations.ScriptItemsEncode := by
  refine ⟨?_, ?_, ?_, ?_, ?_, ?_, ?_, ?_, ?_, ?_⟩ <;> decide

end Sys2Proof.Machine
end

section
/-!
PROOFS. One cycle under a given input word (45_cycle.md R160 to R163): the state after it, its registers
slice by slice, and the tables of the three slices (44_scheduler.md R150, 42_direction.md R116,
43_speed.md R130).
-/

namespace Sys2Proof.Machine

/-! ## The state after a cycle -/

/-- The state after a cycle under the word `w`, whatever words the environment had named. -/
def after (s : State) (w : In12) : State :=
  { cycle s w with script := [], cycleNo := s.cycleNo + 1 }

/-- The slices do not look at the script. -/
theorem cycle_script (s : State) (ws : List In12) (w : In12) :
    cycle { s with script := ws } w = { cycle s w with script := ws } := by
  cases hr : w.rst with
  | true => rw [cycle_of_rst _ w hr, cycle_of_rst _ w hr]; rfl
  | false => rw [cycle_of_not_rst _ w hr, cycle_of_not_rst _ w hr]; rfl

/-- A step under the word `w` leads there. -/
theorem step_under (s : State) (w : In12) (hl : s.cfg.legal) :
    step { s with script := [w] } = .next (after s w) := by
  obtain ⟨-, -, hno⟩ := cycle_model_fields s w
  rw [stepIsCycleFunction { s with script := [w] } hl, inputWord_cons _ w [] rfl, cycle_script]
  simp only [State.endCycle, after, hno, List.tail_cons]

/-- Any step that answers leads there too, the rest of the script apart. -/
theorem step_eq_after (s t : State) (h : step s = .next t) :
    s.cfg.legal ∧ t = { after s s.inputWord with script := s.script.tail } := by
  obtain ⟨hl, rfl⟩ := (step_eq_next_iff s t).1 h
  obtain ⟨-, hscript, hno⟩ := cycle_model_fields s s.inputWord
  exact ⟨hl, by simp only [State.endCycle, after, hscript, hno]⟩

@[simp] theorem after_cfg (s : State) (w : In12) : (after s w).cfg = s.cfg :=
  (cycle_model_fields s w).1

/-- With reset the registers are the reset registers. -/
theorem after_of_rst (s : State) (w : In12) (hr : w.rst = true) :
    after s w = { State.resetWith s.cfg with cycleNo := s.cycleNo + 1 } := by
  rw [after, cycle_of_rst s w hr]
  rfl

/-- Without reset each slice's registers are what its slice gives. -/
theorem after_schedulerRegs (s : State) (w : In12) (hr : w.rst = false) :
    schedulerRegs (after s w) =
      ((schedulerSlice s w).2.2.1, (schedulerSlice s w).2.1, (schedulerSlice s w).2.2.2,
        (schedulerSlice s w).1) := by
  rw [after, cycle_of_not_rst s w hr]
  rfl

theorem after_directionRegs (s : State) (w : In12) (hr : w.rst = false) :
    directionRegs (after s w) = directionSlice s w := by
  rw [after, cycle_of_not_rst s w hr]
  rfl

theorem after_speedRegs (s : State) (w : In12) (hr : w.rst = false) :
    speedRegs (after s w) = speedSlice s w := by
  rw [after, cycle_of_not_rst s w hr]
  rfl

/-! ## The scheduler's registers, case by case -/

theorem schedulerRegs_after_on (s : State) (w : In12) (hr : w.rst = false) (hp : s.phase = .on) :
    schedulerRegs (after s w) = (.wait, s.period, s.index, memWrite s s.index true) := by
  rw [after_schedulerRegs s w hr, schedulerSlice, hp]

theorem schedulerRegs_after_hold (s : State) (w : In12) (hr : w.rst = false) (hp : s.phase = .wait)
    (ht : w.tick = false) : schedulerRegs (after s w) = schedulerRegs s := by
  rw [after_schedulerRegs s w hr]
  simp [schedulerSlice, schedulerRegs, hp, ht]

theorem schedulerRegs_after_count (s : State) (w : In12) (hr : w.rst = false) (hp : s.phase = .wait)
    (ht : w.tick = true) (hleft : 2 ≤ s.waitCnt.toNat) :
    schedulerRegs (after s w) = (.wait, s.waitCnt - 1, s.index, s.led) := by
  have hnot : ¬ s.waitCnt.toNat ≤ 1 := by omega
  rw [after_schedulerRegs s w hr]
  simp [schedulerSlice, hp, ht, hnot]

theorem schedulerRegs_after_end (s : State) (w : In12) (hr : w.rst = false) (hp : s.phase = .wait)
    (ht : w.tick = true) (hover : s.waitCnt.toNat ≤ 1) :
    schedulerRegs (after s w) = (.off, 0, s.index, s.led) := by
  rw [after_schedulerRegs s w hr]
  simp [schedulerSlice, hp, ht, hover]

theorem schedulerRegs_after_off (s : State) (w : In12) (hr : w.rst = false) (hp : s.phase = .off) :
    schedulerRegs (after s w) = (.adv, s.waitCnt, s.index, memWrite s s.index false) := by
  rw [after_schedulerRegs s w hr, schedulerSlice, hp]

theorem schedulerRegs_after_adv (s : State) (w : In12) (hr : w.rst = false) (hp : s.phase = .adv)
    (hi : s.index < s.cfg.n) :
    schedulerRegs (after s w) = (.on, s.waitCnt, next s.cfg.n s.index s.direction, s.led) := by
  rw [after_schedulerRegs s w hr, schedulerSlice, hp, advanceIndex_of_lt s hi]

/-- Equal scheduler registers are equal field by field. -/
theorem schedulerRegs_eq_iff (s : State) (p : Phase) (v : Word) (i : Nat) (m : Memory) :
    schedulerRegs s = (p, v, i, m) ↔ s.phase = p ∧ s.waitCnt = v ∧ s.index = i ∧ s.led = m := by
  simp [schedulerRegs]

/-! ## The direction slice's registers, case by case -/

theorem directionRegs_after_flip (s : State) (w : In12) (hr : w.rst = false) (ha : s.armed = true)
    (he : w.edgeEvt = true) :
    directionRegs (after s w) = (flipped s.direction, false, s.cfg.debounceMs) := by
  rw [after_directionRegs s w hr]
  simp [directionSlice, ha, he]

theorem directionRegs_after_holdArmed (s : State) (w : In12) (hr : w.rst = false)
    (ha : s.armed = true) (he : w.edgeEvt = false) : directionRegs (after s w) = directionRegs s := by
  rw [after_directionRegs s w hr]
  simp [directionSlice, directionRegs, ha, he]

theorem directionRegs_after_holdCooldown (s : State) (w : In12) (hr : w.rst = false)
    (ha : s.armed = false) (ht : w.tick = false) : directionRegs (after s w) = directionRegs s := by
  rw [after_directionRegs s w hr]
  simp [directionSlice, directionRegs, ha, ht]

theorem directionRegs_after_count (s : State) (w : In12) (hr : w.rst = false) (ha : s.armed = false)
    (ht : w.tick = true) (hleft : 2 ≤ s.dbCnt) :
    directionRegs (after s w) = (s.direction, false, s.dbCnt - 1) := by
  have hnot : ¬ s.dbCnt ≤ 1 := by omega
  rw [after_directionRegs s w hr]
  simp [directionSlice, ha, ht, hnot]

theorem directionRegs_after_rearm (s : State) (w : In12) (hr : w.rst = false) (ha : s.armed = false)
    (ht : w.tick = true) (hover : s.dbCnt ≤ 1) : directionRegs (after s w) = (s.direction, true, 0) := by
  rw [after_directionRegs s w hr]
  simp [directionSlice, ha, ht, hover]

/-- Equal direction registers are equal field by field. -/
theorem directionRegs_eq_iff (s : State) (d : Direction) (a : Bool) (k : Nat) :
    directionRegs s = (d, a, k) ↔ s.direction = d ∧ s.armed = a ∧ s.dbCnt = k := by
  simp [directionRegs]

/-! ## The speed slice's registers -/

/-- Without a byte the period stays and no report is shown. -/
theorem after_speed_of_noByte (s : State) (w : In12) (hr : w.rst = false) (hv : w.rxValid = false) :
    (after s w).period = s.period ∧ (after s w).stCode = .none := by
  have hregs := after_speedRegs s w hr
  simpa [speedRegs, speedSlice, hv] using hregs

/-- A byte that is no command leaves the period and is reported. -/
theorem after_speed_of_invalid (s : State) (w : In12) (hr : w.rst = false) (hv : w.rxValid = true)
    (hplus : w.rxData ≠ 0x2B#8) (hminus : w.rxData ≠ 0x2D#8) :
    (after s w).period = s.period ∧ (after s w).stCode = .invalid := by
  have hregs := after_speedRegs s w hr
  simpa [speedRegs, speedSlice, hv, hplus, hminus] using hregs

/-- The byte `+`, over the integers. -/
theorem after_speed_of_plus (s : State) (w : In12) (hl : s.cfg.legal) (hr : w.rst = false)
    (hv : w.rxValid = true) (hplus : w.rxData = 0x2B#8) :
    (after s w).period.toInt = max s.cfg.minPeriod (s.period.toInt - s.cfg.step) ∧
    (after s w).stCode =
      (if s.period.toInt - s.cfg.step > s.cfg.minPeriod then .changed else .limit) := by
  have hregs : speedRegs (after s w) = fasterWrite s := by
    rw [after_speedRegs s w hr]
    simp [speedSlice, hv, hplus, fasterWrite]
  rw [← show (speedRegs (after s w)).1 = (after s w).period from rfl,
    ← show (speedRegs (after s w)).2 = (after s w).stCode from rfl, hregs]
  exact fasterWrite_eq s hl

/-- The byte `-`, over the integers. -/
theorem after_speed_of_minus (s : State) (w : In12) (hl : s.cfg.legal) (hr : w.rst = false)
    (hv : w.rxValid = true) (hminus : w.rxData = 0x2D#8) :
    (after s w).period.toInt = min s.cfg.maxPeriod (s.period.toInt + s.cfg.step) ∧
    (after s w).stCode =
      (if s.period.toInt + s.cfg.step < s.cfg.maxPeriod then .changed else .limit) := by
  have hregs : speedRegs (after s w) = slowerWrite s := by
    rw [after_speedRegs s w hr]
    simp [speedSlice, hv, hminus, slowerWrite]
  rw [← show (speedRegs (after s w)).1 = (after s w).period from rfl,
    ← show (speedRegs (after s w)).2 = (after s w).stCode from rfl, hregs]
  exact slowerWrite_eq s hl

/-! ## The tables of the slices -/

/-- The scheduler's operation is ADV exactly in `PH_ADV`. -/
theorem schedulerOp_eq_adv (s : State) (w : In12) : schedulerOp s w = .adv ↔ s.phase = .adv := by
  cases hp : s.phase with
  | wait => rw [schedulerOp_of_wait s w hp]; split <;> (try split) <;> simp
  | on | off | adv => simp [schedulerOp, hp]

/-- Settles O37: each row's operation, and its registers case by case. -/
theorem schedulerSliceTable : Obligations.SchedulerSliceTable := by
  intro s w hl hi hr
  obtain ⟨hop, -⟩ := ofSlice_select s w hr
  refine ⟨_, step_under s w hl, fun hp => ?_, fun hp ht => ?_, fun hp ht hleft => ?_,
    fun hp ht hover => ?_, fun hp => ?_, fun hp => ?_⟩
  · obtain ⟨hphase, hwait, hindex, hled⟩ :=
      (schedulerRegs_eq_iff ..).1 (schedulerRegs_after_on s w hr hp)
    rw [hop, (schedulerOp_eq_on s w).2 hp, hled]
    exact ⟨rfl, hphase, hwait, hindex, fun a => memWrite_level s s.index a true hi⟩
  · rw [hop, schedulerOp_of_wait s w hp, if_neg (by simp [ht])]
    exact ⟨rfl, schedulerRegs_after_hold s w hr hp ht⟩
  · rw [hop, (schedulerOp_eq_waitCount s w).2 ⟨hp, ht, hleft⟩]
    exact ⟨rfl, schedulerRegs_after_count s w hr hp ht hleft⟩
  · rw [hop, (schedulerOp_eq_waitEnd s w).2 ⟨hp, ht, hover⟩]
    exact ⟨rfl, schedulerRegs_after_end s w hr hp ht hover⟩
  · obtain ⟨hphase, hwait, hindex, hled⟩ :=
      (schedulerRegs_eq_iff ..).1 (schedulerRegs_after_off s w hr hp)
    rw [hop, (schedulerOp_eq_off s w).2 hp, hled]
    exact ⟨rfl, hphase, hwait, hindex, fun a => memWrite_level s s.index a false hi⟩
  · rw [hop, (schedulerOp_eq_adv s w).2 hp]
    exact ⟨rfl, schedulerRegs_after_adv s w hr hp hi⟩

/-- The direction operations of a cooldown's cycle: the dropped edge before the other one. -/
theorem ofSlice_direction_of_cooldown (s : State) (w : In12) (hr : w.rst = false)
    (ha : s.armed = false) (i : Instr) (hop : directionOp s w = i) :
    ofSlice .direction (select s w) = if w.edgeEvt then [.drop, i] else [i] := by
  obtain ⟨-, hslice, -⟩ := ofSlice_select s w hr
  rw [hslice, hop, dropOps]
  cases w.edgeEvt <;> simp [ha]

/-- Settles O38: each row's operations, and its registers case by case. -/
theorem directionSliceTable : Obligations.DirectionSliceTable := by
  intro s w hl hr
  obtain ⟨-, hop, -⟩ := ofSlice_select s w hr
  refine ⟨_, step_under s w hl, fun ha he => ?_, fun ha he => ?_, fun ha ht => ?_,
    fun ha ht hleft => ?_, fun ha ht hover => ?_⟩
  · rw [hop, (directionOp_eq_flip s w).2 ⟨ha, he⟩, ← flipped_eq_ite]
    exact ⟨by simp [dropOps, ha], directionRegs_after_flip s w hr ha he⟩
  · rw [hop, directionOp_of_armed s w ha, if_neg (by simp [he])]
    exact ⟨by simp [dropOps, ha], directionRegs_after_holdArmed s w hr ha he⟩
  · have hhold : directionOp s w = .dirHold .cooldown := by
      rw [directionOp_of_cooldown s w ha, if_neg (by simp [ht])]
    exact ⟨ofSlice_direction_of_cooldown s w hr ha _ hhold,
      directionRegs_after_holdCooldown s w hr ha ht⟩
  · have hcount := (directionOp_eq_dbCount s w).2 ⟨ha, ht, hleft⟩
    exact ⟨ofSlice_direction_of_cooldown s w hr ha _ hcount,
      directionRegs_after_count s w hr ha ht hleft⟩
  · have hrearm := (directionOp_eq_rearm s w).2 ⟨ha, ht, hover⟩
    exact ⟨ofSlice_direction_of_cooldown s w hr ha _ hrearm,
      directionRegs_after_rearm s w hr ha ht hover⟩

/-- Settles O39: each row's operation, and the bound on the side of the comparison it is on. -/
theorem speedSliceTable : Obligations.SpeedSliceTable := by
  intro s w hl hr
  obtain ⟨-, -, hop⟩ := ofSlice_select s w hr
  refine ⟨_, step_under s w hl, fun hv => ?_, fun hv hplus => ?_, fun hv hminus => ?_,
    fun hv hplus hminus => ?_⟩
  · rw [hop, (speedOp_eq_stClear _ _).2 hv]
    exact ⟨rfl, after_speed_of_noByte s w hr hv⟩
  · obtain ⟨hperiod, hreport⟩ := after_speed_of_plus s w hl hr hv hplus
    rw [hop, (speedOp_eq_faster _ _).2 ⟨hv, hplus⟩, hperiod, hreport]
    refine ⟨rfl, fun hstays => ?_, fun hlimit => ?_⟩
    · rw [if_pos hstays]; exact ⟨by omega, rfl⟩
    · rw [if_neg (by omega)]; exact ⟨by omega, rfl⟩
  · obtain ⟨hperiod, hreport⟩ := after_speed_of_minus s w hl hr hv hminus
    rw [hop, (speedOp_eq_slower _ _).2 ⟨hv, hminus⟩, hperiod, hreport]
    refine ⟨rfl, fun hstays => ?_, fun hlimit => ?_⟩
    · rw [if_pos hstays]; exact ⟨by omega, rfl⟩
    · rw [if_neg (by omega)]; exact ⟨by omega, rfl⟩
  · rw [hop, (speedOp_eq_invalid _ _ _).2 ⟨hv, rfl, hplus, hminus⟩]
    exact ⟨rfl, after_speed_of_invalid s w hr hv hplus hminus⟩

end Sys2Proof.Machine
end

section
/-!
PROOFS. The invariants (10_state.md section 6): the reset state meets them, every step keeps them, and so
every reachable state does; and what they say of the registers.
-/

namespace Sys2Proof.Machine

/-! ## Reset and one cycle -/

/-- Settles O15: the reset values, one by one. -/
theorem invariantAtReset : Obligations.InvariantAtReset := by
  intro c hl
  have ⟨hn, ⟨_, hmin, hmax⟩, _⟩ := hl
  have hring : 0 < c.n := by omega
  have hperiod := toInt_ofInt_initPeriod c hl
  refine ⟨hl, hring, ?_, by simp, by simp, by simp, by simp, by simp⟩
  rw [periodInt, resetWith_period, hperiod]
  exact ⟨hmin, hmax⟩

/-- A step of a legal configuration keeps the cursor in the ring. -/
theorem index_after_lt (s : State) (w : In12) (hl : s.cfg.legal) (hi : s.index < s.cfg.n) :
    (after s w).index < s.cfg.n := by
  cases hr : w.rst with
  | true =>
    rw [after_of_rst s w hr]
    have := hl.1
    simp only [resetWith_index]
    omega
  | false =>
    have hindex : (after s w).index = (schedulerSlice s w).2.2.2 :=
      congrArg (·.2.2.1) (after_schedulerRegs s w hr)
    have hadv : advanceIndex s < s.cfg.n := by
      rw [advanceIndex_of_lt s hi]; exact next_lt _ _ _ hi
    rw [hindex]
    obtain ⟨-, -, hrow⟩ | ⟨-, -, -, hrow⟩ | ⟨-, -, -, -, hrow⟩ | ⟨-, -, -, -, hrow⟩ |
      ⟨-, -, hrow⟩ | ⟨-, -, hrow⟩ := scheduler_rows s w <;> rw [hrow] <;> assumption

/-- What the ring and the wait counter hold in each phase (10_state.md R39). -/
abbrev PhaseAgrees (s : State) : Prop :=
  (s.phase = .on → s.led = [] ∧ s.waitCnt = 0) ∧
  (s.phase = .wait →
    s.led = Memory.onehot s.index ∧ 1 ≤ s.waitCnt.toNat ∧ (s.waitCnt.toNat : Int) ≤ s.cfg.maxPeriod) ∧
  (s.phase = .off → s.led = Memory.onehot s.index ∧ s.waitCnt = 0) ∧
  (s.phase = .adv → s.led = [] ∧ s.waitCnt = 0)

/-- Lighting the cursor's line of a dark ring, and extinguishing the one lit line. -/
theorem memWrite_of_ring (s : State) (hi : s.index < s.cfg.n) :
    (s.led = [] → memWrite s s.index true = Memory.onehot s.index) ∧
    (s.led = Memory.onehot s.index → memWrite s s.index false = []) := by
  rw [memWrite, memWrite, if_pos hi, if_pos hi]
  exact ⟨fun h => by rw [h, Memory.write_nil_true], fun h => by rw [h, Memory.write_onehot_false]⟩

/-- A cycle without reset keeps phase, ring and wait counter in agreement. -/
theorem phaseAgrees_after (s : State) (w : In12) (hr : w.rst = false) (hinv : Inv s) :
    PhaseAgrees (after s w) := by
  obtain ⟨hl, hi, ⟨hlow, hhigh⟩, -, hon, hwait, hoff, hadv⟩ := hinv
  obtain ⟨hlight, hdark⟩ := memWrite_of_ring s hi
  have hregs := after_schedulerRegs s w hr
  obtain ⟨hpos, -⟩ := legal_bounds s.cfg hl
  have hperiod : (s.period.toNat : Int) = s.period.toInt :=
    word_toNat_eq_toInt _ (by rw [periodInt] at hlow; omega)
  rw [periodInt] at hlow hhigh
  obtain ⟨hp, -, hrow⟩ | ⟨hp, -, -, hrow⟩ | ⟨hp, -, hleft, -, hrow⟩ | ⟨hp, -, -, -, hrow⟩ |
    ⟨hp, -, hrow⟩ | ⟨hp, -, hrow⟩ := scheduler_rows s w <;>
    simp only [hrow, hp, schedulerRegs_eq_iff] at hregs <;> obtain ⟨hph, hv, hx, hm⟩ := hregs <;>
    simp only [PhaseAgrees, hph, hv, hx, hm, after_cfg, reduceCtorEq, false_implies, true_implies,
      true_and, and_true]
  · exact ⟨hlight (hon hp).1, by omega, by omega⟩
  · exact hwait hp
  · obtain ⟨hled, -, hmax⟩ := hwait hp
    rw [toNat_sub_one _ (by omega)]
    exact ⟨hled, by omega, by omega⟩
  · exact (hwait hp).1
  · exact ⟨hdark (hoff hp).1, (hoff hp).2⟩
  · exact hadv hp

/-- A cycle without reset keeps the debounce guard and its timer in agreement (10_state.md R38). -/
theorem guardAgrees_after (s : State) (w : In12) (hr : w.rst = false) (hdb : 1 ≤ s.cfg.debounceMs)
    (hguard : (s.armed = true ↔ s.dbCnt = 0) ∧ s.dbCnt ≤ s.cfg.debounceMs) :
    ((after s w).armed = true ↔ (after s w).dbCnt = 0) ∧ (after s w).dbCnt ≤ s.cfg.debounceMs := by
  have hregs := after_directionRegs s w hr
  obtain ⟨-, -, -, hrow⟩ | ⟨-, -, -, hrow⟩ | ⟨-, -, -, hrow⟩ | ⟨ha, -, hleft, -, hrow⟩ |
    ⟨-, -, -, -, hrow⟩ := direction_rows s w <;>
    rw [hrow] at hregs <;> obtain ⟨-, harmed, hcnt⟩ := (directionRegs_eq_iff ..).1 hregs <;>
    rw [harmed, hcnt]
  · exact ⟨by simp; omega, le_rfl⟩
  · exact hguard
  · exact hguard
  · exact ⟨by rw [ha]; simp; omega, by omega⟩
  · exact ⟨by simp, by omega⟩

/-- Every legal cycle leaves a period within the bounds, if it started with one (10_state.md R37). -/
theorem period_after_bounds (s : State) (w : In12) (hl : s.cfg.legal)
    (hbounds : s.cfg.minPeriod ≤ s.period.toInt ∧ s.period.toInt ≤ s.cfg.maxPeriod) :
    s.cfg.minPeriod ≤ (after s w).period.toInt ∧ (after s w).period.toInt ≤ s.cfg.maxPeriod := by
  have ⟨_, ⟨_, hmin, hmax⟩, hstep, _⟩ := hl
  cases hr : w.rst with
  | true =>
    rw [after_of_rst s w hr]
    simp only [resetWith_period, toInt_ofInt_initPeriod _ hl]
    exact ⟨hmin, hmax⟩
  | false =>
    obtain ⟨hv, -⟩ | ⟨hv, hplus, -⟩ | ⟨hv, hminus, -⟩ | ⟨hv, hplus, hminus, -⟩ := speed_rows s w
    · rw [(after_speed_of_noByte s w hr hv).1]; exact hbounds
    · rw [(after_speed_of_plus s w hl hr hv hplus).1]; omega
    · rw [(after_speed_of_minus s w hl hr hv hminus).1]; omega
    · rw [(after_speed_of_invalid s w hr hv hplus hminus).1]; exact hbounds

/-- Every cycle keeps the invariants. -/
theorem inv_after (s : State) (w : In12) (hinv : Inv s) : Inv (after s w) := by
  have ⟨hl, hi, hperiod, hguard, _⟩ := hinv
  obtain ⟨-, -, -, hdebounce⟩ := legal_bounds s.cfg hl
  cases hr : w.rst with
  | true =>
    rw [after_of_rst s w hr]
    exact invariantAtReset s.cfg hl
  | false =>
    exact ⟨by rw [after_cfg]; exact hl, by rw [after_cfg]; exact index_after_lt s w hl hi,
      by rw [after_cfg]; exact period_after_bounds s w hl hperiod,
      by rw [after_cfg]; exact guardAgrees_after s w hr hdebounce hguard,
      phaseAgrees_after s w hr hinv⟩

/-- Settles O16: the step is the cycle under the environment's word, and no invariant reads the
script. -/
theorem invariantKept : Obligations.InvariantKept := by
  intro s t hinv h
  obtain ⟨-, rfl⟩ := step_eq_after s t h
  exact inv_after s s.inputWord hinv

/-! ## Reachable states -/

/-- Every reachable state meets the invariants. -/
theorem inv_of_reachable (s : State) (h : Reachable s) : Inv s := by
  induction h with
  | reset c hl => exact invariantAtReset c hl
  | environment s ws _ ih => exact ih
  | cycle s t _ hs ih => exact invariantKept s t ih hs

/-- Settles O17. -/
theorem indexInRange : Obligations.IndexInRange := by
  intro s h
  obtain ⟨-, hi, -⟩ := inv_of_reachable s h
  exact ⟨by omega, hi⟩

/-- Settles O18. -/
theorem periodInBounds : Obligations.PeriodInBounds := by
  intro s h
  obtain ⟨-, -, hperiod, -⟩ := inv_of_reachable s h
  exact hperiod

/-- Settles O19: a timer that is not 0 is at least 1. -/
theorem guardMatchesTimer : Obligations.GuardMatchesTimer := by
  intro s h
  obtain ⟨-, -, -, ⟨hiff, hmax⟩, -⟩ := inv_of_reachable s h
  refine ⟨hiff, fun ha => ⟨?_, hmax⟩⟩
  have hne : s.dbCnt ≠ 0 := fun h0 => by simp [hiff.2 h0] at ha
  omega

/-- Settles O20: the levels of the dark ring and of the one lit line. -/
theorem phaseRingAndWaitAgree : Obligations.PhaseRingAndWaitAgree := by
  intro s h
  obtain ⟨-, -, -, -, hon, hwait, hoff, hadv⟩ := inv_of_reachable s h
  refine ⟨fun hp => ?_, fun hp => ?_, fun hp => ?_, fun hp => ?_⟩
  · simp [hon hp]
  · obtain ⟨hled, hone, hmax⟩ := hwait hp
    exact ⟨fun a => by rw [hled, Memory.level_onehot], hone, hmax⟩
  · simp [hoff hp]
  · simp [hadv hp]

/-- The ring of a reachable state: the cursor's line in the settled phases, dark in the others. -/
theorem led_of_inv (s : State) (h : Inv s) :
    (Settled s ∧ s.led = Memory.onehot s.index) ∨
      (¬ Settled s ∧ (s.phase = .on ∨ s.phase = .adv) ∧ s.led = []) := by
  obtain ⟨-, -, -, -, hon, hwait, hoff, hadv⟩ := h
  cases hp : s.phase with
  | on => exact .inr ⟨by simp [Settled, hp], by simp, (hon hp).1⟩
  | wait => exact .inl ⟨.inl hp, (hwait hp).1⟩
  | off => exact .inl ⟨.inr hp, (hoff hp).1⟩
  | adv => exact .inr ⟨by simp [Settled, hp], by simp, (hadv hp).1⟩

/-- Settles O21: the two forms of the ring, read level by level. -/
theorem neverTwoLinesLit : Obligations.NeverTwoLinesLit := by
  intro s h
  have hinv := inv_of_reachable s h
  have ⟨_, hi, _⟩ := hinv
  obtain ⟨hsettled, hled⟩ | ⟨hsettled, -, hled⟩ := led_of_inv s hinv
  · refine ⟨fun a ha => by simpa [hled] using ha, ⟨fun _ => hsettled, fun _ => ⟨s.index, hi, ?_⟩⟩,
      fun hp => ?_⟩
    · simp [hled]
    · obtain hs | hs := hsettled <;> simp [hs] at hp
  · refine ⟨fun a ha => by simp [hled] at ha, ⟨fun ⟨a, _, ha⟩ => ?_, fun hs => absurd hs hsettled⟩,
      fun _ a => by rw [hled, Memory.level_nil]⟩
    simp [hled] at ha

/-! ## The ring in canonical form -/

/-- `MemWrite` keeps the ring inside its positions, at any position. -/
theorem memWrite_lt (s : State) (pos : Nat) (v : Bool) (h : ∀ c ∈ s.led, c.1 < s.cfg.n) :
    ∀ c ∈ memWrite s pos v, c.1 < s.cfg.n := by
  intro c hc
  rw [memWrite] at hc
  split at hc
  · cases v with
    | true =>
      obtain rfl | hm := (Memory.mem_insert _ _ _).1 hc
      · assumption
      · exact h c ((Memory.mem_remove _ _ _).1 hm).1
    | false => exact h c ((Memory.mem_remove _ _ _).1 hc).1
  · exact ofLevels_lt _ _ c hc

/-- Settles O14: a cycle writes the ring by `MemWrite` or clears it, or leaves it. -/
theorem ringStaysCanonical : Obligations.RingStaysCanonical := by
  intro s t hwf hlt h
  obtain ⟨-, rfl⟩ := step_eq_after s t h
  simp only [after_cfg]
  cases hr : s.inputWord.rst with
  | true =>
    rw [after_of_rst s _ hr]
    exact ⟨Memory.wf_nil, by simp⟩
  | false =>
    have hled : (after s s.inputWord).led = (schedulerSlice s s.inputWord).1 :=
      congrArg (·.2.2.2) (after_schedulerRegs s _ hr)
    rw [hled]
    obtain ⟨-, -, hrow⟩ | ⟨-, -, -, hrow⟩ | ⟨-, -, -, -, hrow⟩ | ⟨-, -, -, -, hrow⟩ |
      ⟨-, -, hrow⟩ | ⟨-, -, hrow⟩ := scheduler_rows s s.inputWord <;> rw [hrow]
    · exact ⟨memWrite_wf s _ _ hwf, memWrite_lt s _ _ hlt⟩
    · exact ⟨hwf, hlt⟩
    · exact ⟨hwf, hlt⟩
    · exact ⟨hwf, hlt⟩
    · exact ⟨memWrite_wf s _ _ hwf, memWrite_lt s _ _ hlt⟩
    · exact ⟨hwf, hlt⟩

/-! ## The report -/

/-- FASTER and SLOWER always report. -/
theorem speedWrites_report (s : State) : (fasterWrite s).2 ≠ .none ∧ (slowerWrite s).2 ≠ .none := by
  rw [fasterWrite, slowerWrite]
  constructor <;> split <;> simp

/-- Settles O22: of the rows of a cycle ST_CLEAR and RESET alone leave no report. -/
theorem reportIffByteHandled : Obligations.ReportIffByteHandled := by
  intro s t h
  obtain ⟨-, rfl⟩ := step_eq_after s t h
  cases hr : s.inputWord.rst with
  | true => simp [after_of_rst s _ hr]
  | false =>
    have hreport : (after s s.inputWord).stCode = (speedSlice s s.inputWord).2 :=
      congrArg (·.2) (after_speedRegs s _ hr)
    obtain ⟨hfaster, hslower⟩ := speedWrites_report s
    simp only [hreport]
    obtain ⟨hv, -, hrow⟩ | ⟨hv, -, -, hrow⟩ | ⟨hv, -, -, hrow⟩ | ⟨hv, -, -, -, hrow⟩ :=
      speed_rows s s.inputWord <;> simp [hrow, hv, hfaster, hslower]

end Sys2Proof.Machine
end

section
/-!
PROOFS. The slices do not interfere (45_cycle.md R163, R165): what each slice does depends on its own
registers and the cross-slice reads alone, and so operations of different slices commute.
-/

namespace Sys2Proof.Machine

/-! ## Cycles -/

/-- `MemWrite` reads the ring, the parameters and, for its free values, the cycle number. -/
theorem memWrite_congr (s s' : State) (pos : Nat) (v : Bool) (hcfg : s.cfg = s'.cfg)
    (hled : s.led = s'.led) (hfree : pos < s.cfg.n ∨ s.cycleNo = s'.cycleNo) :
    memWrite s pos v = memWrite s' pos v := by
  rw [memWrite, memWrite, ← hcfg, ← hled]
  split
  · rfl
  · rw [hfree.resolve_left ‹_›]

/-- What ADV reads. -/
theorem advanceIndex_congr (s s' : State) (hcfg : s.cfg = s'.cfg) (hindex : s.index = s'.index)
    (hdir : s.direction = s'.direction) (hfree : s.index < s.cfg.n ∨ s.cycleNo = s'.cycleNo) :
    advanceIndex s = advanceIndex s' := by
  rw [advanceIndex, advanceIndex, ← hcfg, ← hindex, ← hdir]
  split
  · rfl
  · rw [hfree.resolve_left ‹_›]

/-- What the scheduler slice reads. -/
theorem schedulerSlice_congr (s s' : State) (w w' : In12) (hi : s.index < s.cfg.n)
    (hcfg : s.cfg = s'.cfg) (hregs : schedulerRegs s = schedulerRegs s')
    (hadv : s.phase = .adv → s.direction = s'.direction) (hon : s.phase = .on → s.period = s'.period)
    (ht : w.tick = w'.tick) : schedulerSlice s w = schedulerSlice s' w' := by
  obtain ⟨hphase, hwait, hindex, hled⟩ := (schedulerRegs_eq_iff s _ _ _ _).1 hregs
  simp only [schedulerSlice, ← hphase, ← hwait, ← hindex, ← hled, ht]
  cases hp : s.phase with
  | on =>
    simp only [hon hp, memWrite_congr s s' s.index true hcfg hled (.inl hi)]
  | wait => rfl
  | off => simp only [memWrite_congr s s' s.index false hcfg hled (.inl hi)]
  | adv => simp only [advanceIndex_congr s s' hcfg hindex (hadv hp) (.inl hi)]

/-- Settles O43: with reset both states go to the reset registers, without it the slice decides. -/
theorem schedulerSliceIsolated : Obligations.SchedulerSliceIsolated := by
  intro s s' t t' hi hcfg hregs hadv hon hr ht h h'
  obtain ⟨-, rfl⟩ := step_eq_after s t h
  obtain ⟨-, rfl⟩ := step_eq_after s' t' h'
  change schedulerRegs (after s s.inputWord) = schedulerRegs (after s' s'.inputWord)
  cases hrst : s.inputWord.rst with
  | true =>
    rw [after_of_rst s _ hrst, after_of_rst s' _ (hr ▸ hrst)]
    rfl
  | false =>
    rw [after_schedulerRegs s _ hrst, after_schedulerRegs s' _ (hr ▸ hrst),
      schedulerSlice_congr s s' _ _ hi hcfg hregs hadv hon ht]

/-- Settles O44: with reset both states go to the reset registers, without it the slice decides. -/
theorem directionSliceIsolated : Obligations.DirectionSliceIsolated := by
  intro s s' t t' hcfg hregs hr ht he h h'
  obtain ⟨-, rfl⟩ := step_eq_after s t h
  obtain ⟨-, rfl⟩ := step_eq_after s' t' h'
  change directionRegs (after s s.inputWord) = directionRegs (after s' s'.inputWord)
  cases hrst : s.inputWord.rst with
  | true =>
    rw [after_of_rst s _ hrst, after_of_rst s' _ (hr ▸ hrst)]
    rfl
  | false =>
    obtain ⟨hdir, harmed, hcnt⟩ := (directionRegs_eq_iff s _ _ _).1 hregs
    rw [after_directionRegs s _ hrst, after_directionRegs s' _ (hr ▸ hrst)]
    simp only [directionSlice, hcfg, hdir, harmed, hcnt, ht, he]

/-- Settles O45: with reset both states go to the reset registers, without it the slice decides. -/
theorem speedSliceIsolated : Obligations.SpeedSliceIsolated := by
  intro s s' t t' hcfg hperiod hr hv hdata h h'
  obtain ⟨-, rfl⟩ := step_eq_after s t h
  obtain ⟨-, rfl⟩ := step_eq_after s' t' h'
  change speedRegs (after s s.inputWord) = speedRegs (after s' s'.inputWord)
  cases hrst : s.inputWord.rst with
  | true =>
    rw [after_of_rst s _ hrst, after_of_rst s' _ (hr ▸ hrst), hcfg]
    rfl
  | false =>
    rw [after_speedRegs s _ hrst, after_speedRegs s' _ (hr ▸ hrst)]
    cases hbyte : s.inputWord.rxValid with
    | false => simp [speedSlice, ← hv, hbyte, hperiod]
    | true =>
      rw [speedSlice, speedSlice, ← hv, hbyte, ← hdata hbyte, periodInt, periodInt, ← hperiod, ← hcfg]

/-- An illegal configuration is refused under every word. -/
theorem step_refused (s : State) (w : In12) (hl : ¬ s.cfg.legal) :
    step { s with script := [w] } = .refused .illegalConfiguration :=
  stepIsTotal.2 { s with script := [w] } hl

/-- In the cooldown the clock-cycle function does not look at the edge. -/
theorem after_edge_of_cooldown (s : State) (f : InFields) (ha : s.armed = false) :
    after s { f with edgeEvt := true }.word = after s { f with edgeEvt := false }.word := by
  have hcycle : cycle s { f with edgeEvt := true }.word = cycle s { f with edgeEvt := false }.word := by
    simp [cycle, schedulerSlice, directionSlice, speedSlice, ha]
  rw [after, after, hcycle]

/-- Settles O46: a legal cycle of the cooldown does not look at the edge, and an illegal configuration
is refused either way. -/
theorem droppedEdgeLeavesNoTrace : Obligations.DroppedEdgeLeavesNoTrace := by
  intro s f ha
  by_cases hl : s.cfg.legal
  · rw [step_under s _ hl, step_under s _ hl, after_edge_of_cooldown s f ha]
  · rw [step_refused s _ hl, step_refused s _ hl]

/-! ## Operations -/

/-- Operations of the other slices leave the direction slice's registers. -/
theorem exec_keeps_directionRegs (i : Instr) (hi : i.slice = .scheduler ∨ i.slice = .speed)
    (s t : State) (h : exec i s = .next t) : directionRegs t = directionRegs s := by
  cases i with
  | reset | flip | drop | dbCount | rearm | dirHold => simp [Instr.slice] at hi
  | on | waitHold | waitCount | waitEnd | off | adv | invalid | stClear => cases h; rfl
  | faster => rw [exec_faster] at h; cases h; rfl
  | slower => rw [exec_slower] at h; cases h; rfl

/-- Operations of the other slices leave the speed slice's registers. -/
theorem exec_keeps_speedRegs (i : Instr) (hi : i.slice = .scheduler ∨ i.slice = .direction)
    (s t : State) (h : exec i s = .next t) : speedRegs t = speedRegs s := by
  cases i with
  | reset | faster | slower | invalid | stClear => simp [Instr.slice] at hi
  | _ => cases h; rfl

/-- What a scheduler operation writes depends on its registers, the model's own fields, and the
cross-slice reads: `direction` for ADV, `period` for ON. -/
theorem exec_schedulerRegs_congr (i : Instr) (hi : i.slice = .scheduler) (s s' t t' : State)
    (hregs : schedulerRegs s = schedulerRegs s') (hcfg : s.cfg = s'.cfg)
    (hno : s.cycleNo = s'.cycleNo) (hadv : i = .adv → s.direction = s'.direction)
    (hon : i = .on → s.period = s'.period) (h : exec i s = .next t) (h' : exec i s' = .next t') :
    schedulerRegs t = schedulerRegs t' := by
  obtain ⟨hphase, hwait, hindex, hled⟩ := (schedulerRegs_eq_iff s _ _ _ _).1 hregs
  cases i with
  | reset | flip | drop | dbCount | rearm | dirHold | faster | slower | invalid | stClear =>
    simp [Instr.slice] at hi
  | waitHold => cases h; cases h'; exact hregs
  | waitCount => cases h; cases h'; simp [schedulerRegs, hphase, hwait, hindex, hled]
  | waitEnd => cases h; cases h'; simp [schedulerRegs, hindex, hled]
  | on =>
    cases h; cases h'
    simp [schedulerRegs, ledOn, hon rfl, hindex, memWrite_congr s s' s'.index true hcfg hled (.inr hno)]
  | off =>
    cases h; cases h'
    simp [schedulerRegs, ledOff, hwait, hindex, memWrite_congr s s' s'.index false hcfg hled (.inr hno)]
  | adv =>
    cases h; cases h'
    simp [schedulerRegs, advance, hwait, hled, advanceIndex_congr s s' hcfg hindex (hadv rfl) (.inr hno)]

/-- What a direction operation writes depends on its own registers and the parameters. -/
theorem exec_directionRegs_congr (i : Instr) (hi : i.slice = .direction) (s s' t t' : State)
    (hregs : directionRegs s = directionRegs s') (hcfg : s.cfg = s'.cfg)
    (h : exec i s = .next t) (h' : exec i s' = .next t') : directionRegs t = directionRegs t' := by
  obtain ⟨hdir, harmed, hcnt⟩ := (directionRegs_eq_iff s _ _ _).1 hregs
  cases i with
  | reset | on | waitHold | waitCount | waitEnd | off | adv | faster | slower | invalid | stClear =>
    simp [Instr.slice] at hi
  | drop | dirHold => cases h; cases h'; exact hregs
  | flip | dbCount | rearm => cases h; cases h'; simp [directionRegs, hdir, harmed, hcnt, hcfg]

/-- What a speed operation writes depends on its own registers and the parameters. -/
theorem exec_speedRegs_congr (i : Instr) (hi : i.slice = .speed) (s s' t t' : State)
    (hregs : speedRegs s = speedRegs s') (hcfg : s.cfg = s'.cfg)
    (h : exec i s = .next t) (h' : exec i s' = .next t') : speedRegs t = speedRegs t' := by
  have ⟨hperiod, hcode⟩ : s.period = s'.period ∧ s.stCode = s'.stCode := by
    simpa [speedRegs] using hregs
  obtain ⟨hfaster, hslower⟩ := fasterWrite_and_slowerWrite_congr s' s hperiod hcfg
  cases i with
  | reset | on | waitHold | waitCount | waitEnd | off | adv | flip | drop | dbCount | rearm | dirHold =>
    simp [Instr.slice] at hi
  | invalid | stClear => cases h; cases h'; simp [speedRegs, hperiod]
  | faster => rw [exec_faster] at h h'; cases h; cases h'; rw [hfaster]; rfl
  | slower => rw [exec_slower] at h h'; cases h; cases h'; rw [hslower]; rfl

/-- A state is its three slices' registers and the model's own fields. -/
theorem state_eq_of_regs (s t : State) (hsched : schedulerRegs s = schedulerRegs t)
    (hdir : directionRegs s = directionRegs t) (hspeed : speedRegs s = speedRegs t)
    (hmodel : s.cfg = t.cfg ∧ s.script = t.script ∧ s.cycleNo = t.cycleNo) : s = t := by
  cases s
  cases t
  simp only [schedulerRegs, directionRegs, speedRegs, Prod.mk.injEq] at hsched hdir hspeed hmodel
  simp [hsched, hdir, hspeed, hmodel]

/-- Two operations, in either order, write the model's own fields the same: not at all. -/
theorem model_fields_of_two (i j : Instr) (s u v u' v' : State) (hu : exec i s = .next u)
    (hv : exec j u = .next v) (hu' : exec j s = .next u') (hv' : exec i u' = .next v') :
    (u'.cfg = s.cfg ∧ u'.cycleNo = s.cycleNo) ∧ (u.cfg = s.cfg ∧ u.cycleNo = s.cycleNo) ∧
      (v.cfg = v'.cfg ∧ v.script = v'.script ∧ v.cycleNo = v'.cycleNo) := by
  have hiu := exec_model_fields i s u hu
  have hjv := exec_model_fields j u v hv
  have hju := exec_model_fields j s u' hu'
  have hiv := exec_model_fields i u' v' hv'
  simp [hiu, hjv, hju, hiv]

/-- A scheduler operation and a direction operation commute, ADV and FLIP apart. -/
theorem exec_comm_scheduler_direction (i j : Instr) (hi : i.slice = .scheduler)
    (hj : j.slice = .direction) (hne : ¬ (i = .adv ∧ j = .flip)) (s u v u' v' : State)
    (hu : exec i s = .next u) (hv : exec j u = .next v) (hu' : exec j s = .next u')
    (hv' : exec i u' = .next v') : v = v' := by
  obtain ⟨⟨hcfg', hno'⟩, ⟨hcfg, -⟩, hmodel⟩ := model_fields_of_two i j s u v u' v' hu hv hu' hv'
  have hspeed' := exec_keeps_speedRegs j (.inr hj) s u' hu'
  have hread : i = .adv → u'.direction = s.direction := by
    rintro rfl
    have hflip : j ≠ .flip := fun h => hne ⟨rfl, h⟩
    cases j with
    | flip => exact absurd rfl hflip
    | drop | dbCount | rearm | dirHold => cases hu'; rfl
    | _ => simp [Instr.slice] at hj
  refine state_eq_of_regs _ _ ?_ ?_ ?_ hmodel
  · rw [exec_keeps_schedulerRegs j (.inl hj) u v hv]
    exact exec_schedulerRegs_congr i hi s u' u v' (exec_keeps_schedulerRegs j (.inl hj) s u' hu').symm
      hcfg'.symm hno'.symm (fun h => (hread h).symm) (fun _ => (congrArg (·.1) hspeed').symm) hu hv'
  · rw [exec_keeps_directionRegs i (.inl hi) u' v' hv']
    exact exec_directionRegs_congr j hj u s v u' (exec_keeps_directionRegs i (.inl hi) s u hu) hcfg
      hv hu'
  · rw [exec_keeps_speedRegs j (.inr hj) u v hv, exec_keeps_speedRegs i (.inl hi) s u hu,
      exec_keeps_speedRegs i (.inl hi) u' v' hv', hspeed']

/-- A scheduler operation and a speed operation commute, ON and FASTER or SLOWER apart. -/
theorem exec_comm_scheduler_speed (i j : Instr) (hi : i.slice = .scheduler) (hj : j.slice = .speed)
    (hne : ¬ (i = .on ∧ (j = .faster ∨ j = .slower))) (s u v u' v' : State)
    (hu : exec i s = .next u) (hv : exec j u = .next v) (hu' : exec j s = .next u')
    (hv' : exec i u' = .next v') : v = v' := by
  obtain ⟨⟨hcfg', hno'⟩, ⟨hcfg, -⟩, hmodel⟩ := model_fields_of_two i j s u v u' v' hu hv hu' hv'
  have hdir' := exec_keeps_directionRegs j (.inr hj) s u' hu'
  have hread : i = .on → u'.period = s.period := by
    rintro rfl
    have hstep : ¬ (j = .faster ∨ j = .slower) := fun h => hne ⟨rfl, h⟩
    cases j with
    | faster | slower => simp at hstep
    | invalid | stClear => cases hu'; rfl
    | _ => simp [Instr.slice] at hj
  refine state_eq_of_regs _ _ ?_ ?_ ?_ hmodel
  · rw [exec_keeps_schedulerRegs j (.inr hj) u v hv]
    exact exec_schedulerRegs_congr i hi s u' u v' (exec_keeps_schedulerRegs j (.inr hj) s u' hu').symm
      hcfg'.symm hno'.symm (fun _ => (congrArg (·.1) hdir').symm) (fun h => (hread h).symm) hu hv'
  · rw [exec_keeps_directionRegs j (.inr hj) u v hv, exec_keeps_directionRegs i (.inl hi) s u hu,
      exec_keeps_directionRegs i (.inl hi) u' v' hv', hdir']
  · rw [exec_keeps_speedRegs i (.inl hi) u' v' hv']
    exact exec_speedRegs_congr j hj u s v u' (exec_keeps_speedRegs i (.inl hi) s u hu) hcfg hv hu'

/-- A direction operation and a speed operation always commute. -/
theorem exec_comm_direction_speed (i j : Instr) (hi : i.slice = .direction) (hj : j.slice = .speed)
    (s u v u' v' : State) (hu : exec i s = .next u) (hv : exec j u = .next v)
    (hu' : exec j s = .next u') (hv' : exec i u' = .next v') : v = v' := by
  obtain ⟨⟨hcfg', -⟩, ⟨hcfg, -⟩, hmodel⟩ := model_fields_of_two i j s u v u' v' hu hv hu' hv'
  refine state_eq_of_regs _ _ ?_ ?_ ?_ hmodel
  · rw [exec_keeps_schedulerRegs j (.inr hj) u v hv, exec_keeps_schedulerRegs i (.inl hi) s u hu,
      exec_keeps_schedulerRegs i (.inl hi) u' v' hv', exec_keeps_schedulerRegs j (.inr hj) s u' hu']
  · rw [exec_keeps_directionRegs j (.inr hj) u v hv]
    exact exec_directionRegs_congr i hi s u' u v' (exec_keeps_directionRegs j (.inr hj) s u' hu').symm
      hcfg'.symm hu hv'
  · rw [exec_keeps_speedRegs i (.inr hi) u' v' hv']
    exact exec_speedRegs_congr j hj u s v u' (exec_keeps_speedRegs i (.inr hi) s u hu) hcfg hv hu'

/-- Settles O47: one of the three pairs of slices, in either order. -/
theorem slicesCommute : Obligations.SlicesCommute := by
  intro s i j hij hi hj hflipAdv hadvFlip hspeedOn honSpeed
  obtain ⟨u, hu⟩ := exec_next i s
  obtain ⟨v, hv⟩ := exec_next j u
  obtain ⟨u', hu'⟩ := exec_next j s
  obtain ⟨v', hv'⟩ := exec_next i u'
  have hfirst : execAll [i, j] s = .next v := by
    rw [execAll_cons _ _ _ _ hu, execAll_cons _ _ _ _ hv]; rfl
  have hsecond : execAll [j, i] s = .next v' := by
    rw [execAll_cons _ _ _ _ hu', execAll_cons _ _ _ _ hv']; rfl
  rw [hfirst, hsecond]
  congr 1
  cases hsi : i.slice with
  | all => exact absurd hsi hi
  | scheduler =>
    cases hsj : j.slice with
    | all => exact absurd hsj hj
    | scheduler => exact absurd (hsi.trans hsj.symm) hij
    | direction => exact exec_comm_scheduler_direction i j hsi hsj hadvFlip s u v u' v' hu hv hu' hv'
    | speed => exact exec_comm_scheduler_speed i j hsi hsj honSpeed s u v u' v' hu hv hu' hv'
  | direction =>
    cases hsj : j.slice with
    | all => exact absurd hsj hj
    | scheduler =>
      exact (exec_comm_scheduler_direction j i hsj hsi (fun h => hflipAdv ⟨h.2, h.1⟩) s u' v' u v
        hu' hv' hu hv).symm
    | direction => exact absurd (hsi.trans hsj.symm) hij
    | speed => exact exec_comm_direction_speed i j hsi hsj s u v u' v' hu hv hu' hv'
  | speed =>
    cases hsj : j.slice with
    | all => exact absurd hsj hj
    | scheduler =>
      exact (exec_comm_scheduler_speed j i hsj hsi (fun h => hspeedOn ⟨h.2, h.1⟩) s u' v' u v
        hu' hv' hu hv).symm
    | direction => exact (exec_comm_direction_speed j i hsj hsi s u' v' u v hu' hv' hu hv).symm
    | speed => exact absurd (hsi.trans hsj.symm) hij

end Sys2Proof.Machine
end

section
/-!
PROOFS. Runs under given input words (45_cycle.md R161): the state a run ends in, what a run keeps, and
the bounded liveness of the wait, the cooldown and the loop (44_scheduler.md R151, R152, 42_direction.md
R112, R117, 70_reset_and_hazards.md R216, 43_speed.md R132).
-/

namespace Sys2Proof.Machine

/-! ## The state a run ends in -/

/-- The state after a cycle under each of the words. -/
def runState (s : State) (ws : List In12) : State := ws.foldl after s

@[simp] theorem runState_nil (s : State) : runState s [] = s := rfl

@[simp] theorem runState_cons (s : State) (w : In12) (ws : List In12) :
    runState s (w :: ws) = runState (after s w) ws := rfl

theorem runState_append (s : State) (ws vs : List In12) :
    runState s (ws ++ vs) = runState (runState s ws) vs := List.foldl_append

/-- A property that every cycle keeps, under words of some kind, holds after a run of such words. -/
theorem runState_keeps (P : State → Prop) (ok : In12 → Prop)
    (hstep : ∀ s w, ok w → P s → P (after s w)) (s : State) (ws : List In12)
    (hws : ∀ w ∈ ws, ok w) (h : P s) : P (runState s ws) := by
  induction ws generalizing s with
  | nil => exact h
  | cons w ws ih =>
    exact ih (after s w) (fun v hv => hws v (List.mem_cons_of_mem w hv))
      (hstep s w (hws w List.mem_cons_self) h)

@[simp] theorem runState_cfg (s : State) (ws : List In12) : (runState s ws).cfg = s.cfg :=
  runState_keeps (fun t => t.cfg = s.cfg) (fun _ => True) (fun t w _ h => (after_cfg t w).trans h)
    s ws (fun _ _ => trivial) rfl

/-- A run of a legal configuration ends there. -/
theorem runWords_eq (s : State) (ws : List In12) (hl : s.cfg.legal) :
    runWords s ws = .next (runState s ws) := by
  induction ws generalizing s with
  | nil => rfl
  | cons w ws ih =>
    rw [runWords_cons s _ w ws (step_under s w hl), ih _ (by rw [after_cfg]; exact hl)]
    rfl

/-- The operations of a run of a legal configuration. -/
theorem runOps_cons_after (s : State) (w : In12) (ws : List In12) (hl : s.cfg.legal) :
    runOps s (w :: ws) = select s w ++ runOps (after s w) ws :=
  runOps_cons s _ w ws (step_under s w hl)

theorem runOps_append (s : State) (ws vs : List In12) (hl : s.cfg.legal) :
    runOps s (ws ++ vs) = runOps s ws ++ runOps (runState s ws) vs := by
  obtain ⟨-, hops, -⟩ := runWords_append s _ ws vs (runWords_eq s ws hl)
  exact hops

/-- A run keeps the invariants. -/
theorem inv_runState (s : State) (ws : List In12) (h : Inv s) : Inv (runState s ws) :=
  runState_keeps Inv (fun _ => True) (fun t w _ => inv_after t w) s ws (fun _ _ => trivial) h

/-- The ticks of a run are those of its first word and of the rest. -/
theorem ticks_cons (w : In12) (ws : List In12) :
    ticks (w :: ws) = ticks ws + if w.tick then 1 else 0 := List.countP_cons

/-- Where every word has a tick there are as many ticks as words. -/
theorem ticks_eq_length (ws : List In12) (h : ∀ w ∈ ws, In12.tick w = true) :
    ticks ws = ws.length := List.countP_eq_length.2 h

/-! ## The wait -/

/-- A wait with more ticks left than come goes on, each tick counted once (44_scheduler.md R151). -/
theorem wait_goes_on (s : State) (ws : List In12) (hfree : ResetFree ws) (hp : s.phase = .wait)
    (hlt : ticks ws < s.waitCnt.toNat) :
    (runState s ws).phase = .wait ∧ (runState s ws).waitCnt.toNat + ticks ws = s.waitCnt.toNat ∧
      (runState s ws).index = s.index ∧ (runState s ws).led = s.led := by
  induction ws generalizing s with
  | nil => exact ⟨hp, rfl, rfl, rfl⟩
  | cons w ws ih =>
    obtain ⟨hr, hrest⟩ := List.forall_mem_cons.1 hfree
    rw [ticks_cons] at hlt ⊢
    cases ht : w.tick with
    | false =>
      obtain ⟨hphase, hwait, hindex, hled⟩ :=
        (schedulerRegs_eq_iff ..).1 (schedulerRegs_after_hold s w hr hp ht)
      have hnext := ih (after s w) hrest (hphase.trans hp) (by simpa [hwait, ht] using hlt)
      rw [hwait, hindex, hled] at hnext
      exact hnext
    | true =>
      rw [ht, if_pos rfl] at hlt
      obtain ⟨hphase, hwait, hindex, hled⟩ :=
        (schedulerRegs_eq_iff ..).1 (schedulerRegs_after_count s w hr hp ht (by omega))
      have hcnt : (after s w).waitCnt.toNat = s.waitCnt.toNat - 1 := by
        rw [hwait, toNat_sub_one _ (by omega)]
      obtain ⟨hphase', hsum, hindex', hled'⟩ := ih (after s w) hrest hphase (by omega)
      exact ⟨hphase', by rw [runState_cons, if_pos rfl]; omega, hindex'.trans hindex, hled'.trans hled⟩

/-- It ends in the cycle of the last tick left. -/
theorem wait_ends (s : State) (ws : List In12) (w : In12) (hfree : ResetFree ws)
    (hp : s.phase = .wait) (hr : w.rst = false) (ht : w.tick = true)
    (hlast : ticks ws + 1 = s.waitCnt.toNat) :
    (runState s (ws ++ [w])).phase = .off ∧ (runState s (ws ++ [w])).waitCnt = 0 ∧
      (runState s (ws ++ [w])).index = s.index ∧ (runState s (ws ++ [w])).led = s.led := by
  obtain ⟨hphase, hsum, hindex, hled⟩ := wait_goes_on s ws hfree hp (by omega)
  obtain ⟨hphase', hwait', hindex', hled'⟩ :=
    (schedulerRegs_eq_iff ..).1 (schedulerRegs_after_end _ w hr hphase ht (by omega))
  rw [runState_append]
  exact ⟨hphase', hwait', hindex'.trans hindex, hled'.trans hled⟩

/-- Settles O48: ON loads the counter with `P`, and the wait counts it down. -/
theorem waitLastsPeriodTicks : Obligations.WaitLastsPeriodTicks := by
  intro s w0 w ws hl hi hp hpos hr0 hfree hr ht
  obtain ⟨hphase, hwait, hindex, hled⟩ :=
    (schedulerRegs_eq_iff ..).1 (schedulerRegs_after_on s w0 hr0 hp)
  have hload : ((after s w0).waitCnt.toNat : Int) = s.period.toInt := by
    rw [hwait, word_toNat_eq_toInt _ (by omega)]
  have hlit : (after s w0).led.level s.index = true := by
    rw [hled, memWrite_level s _ _ true hi, if_pos rfl]
  refine ⟨fun hlt => ?_, fun hlast => ?_⟩
  · obtain ⟨hphase', hsum, hindex', hled'⟩ := wait_goes_on (after s w0) ws hfree hphase (by omega)
    refine ⟨_, runWords_eq s _ hl, hphase', ?_, hindex'.trans hindex, ?_⟩
    · rw [runState_cons]; omega
    · rw [runState_cons, hled', hlit]
  · obtain ⟨hphase', hwait', hindex', hled'⟩ :=
      wait_ends (after s w0) ws w hfree hphase hr ht (by omega)
    refine ⟨_, runWords_eq s _ hl, hphase', hwait', hindex'.trans hindex, ?_⟩
    rw [runState_cons, hled', hlit]

/-! ## The cooldown -/

/-- A cooldown with more ticks left than come goes on, each tick counted once (42_direction.md R112). -/
theorem cooldown_goes_on (s : State) (ws : List In12) (hfree : ResetFree ws) (ha : s.armed = false)
    (hlt : ticks ws < s.dbCnt) :
    (runState s ws).direction = s.direction ∧ (runState s ws).armed = false ∧
      (runState s ws).dbCnt + ticks ws = s.dbCnt := by
  induction ws generalizing s with
  | nil => exact ⟨rfl, ha, rfl⟩
  | cons w ws ih =>
    obtain ⟨hr, hrest⟩ := List.forall_mem_cons.1 hfree
    rw [ticks_cons] at hlt ⊢
    cases ht : w.tick with
    | false =>
      obtain ⟨hdir, harmed, hcnt⟩ :=
        (directionRegs_eq_iff ..).1 (directionRegs_after_holdCooldown s w hr ha ht)
      have hnext := ih (after s w) hrest (harmed.trans ha) (by simpa [hcnt, ht] using hlt)
      rw [hdir, hcnt] at hnext
      exact hnext
    | true =>
      rw [ht, if_pos rfl] at hlt
      obtain ⟨hdir, harmed, hcnt⟩ :=
        (directionRegs_eq_iff ..).1 (directionRegs_after_count s w hr ha ht (by omega))
      obtain ⟨hdir', harmed', hsum⟩ := ih (after s w) hrest harmed (by omega)
      exact ⟨hdir'.trans hdir, harmed', by rw [runState_cons, if_pos rfl]; omega⟩

/-- Settles O49: FLIP loads the timer with `DEBOUNCE_MS`, and the cooldown counts it down. -/
theorem cooldownLastsDebounceTicks : Obligations.CooldownLastsDebounceTicks := by
  intro s w0 w ws hl ha hr0 he0 hfree hr ht
  obtain ⟨hdir, harmed, hcnt⟩ :=
    (directionRegs_eq_iff ..).1 (directionRegs_after_flip s w0 hr0 ha he0)
  refine ⟨fun hlt => ?_, fun hlast => ?_⟩
  · obtain ⟨hdir', harmed', hsum⟩ := cooldown_goes_on (after s w0) ws hfree harmed (by omega)
    exact ⟨_, runWords_eq s _ hl, harmed', by rw [runState_cons]; omega, hdir'.trans hdir⟩
  · obtain ⟨hdir', harmed', hsum⟩ := cooldown_goes_on (after s w0) ws hfree harmed (by omega)
    obtain ⟨hdir'', harmed'', hcnt''⟩ :=
      (directionRegs_eq_iff ..).1 (directionRegs_after_rearm _ w hr harmed' ht (by omega))
    refine ⟨_, runWords_eq s _ hl, ?_⟩
    rw [runState_cons, runState_append]
    exact ⟨harmed'', hcnt'', hdir''.trans (hdir'.trans hdir)⟩

/-- Without an edge while armed the direction stays. -/
theorem direction_after_of_noFlip (s : State) (w : In12) (hr : w.rst = false)
    (hquiet : s.armed = false ∨ w.edgeEvt = false) : (after s w).direction = s.direction := by
  have hdir : (after s w).direction = (directionSlice s w).1 :=
    congrArg (·.1) (after_directionRegs s w hr)
  obtain ⟨ha, he, -⟩ | ⟨-, -, -, hrow⟩ | ⟨-, -, -, hrow⟩ | ⟨-, -, -, -, hrow⟩ |
    ⟨-, -, -, -, hrow⟩ := direction_rows s w
  · simp [ha, he] at hquiet
  · rw [hdir, hrow]; rfl
  · rw [hdir, hrow]; rfl
  · rw [hdir, hrow]
  · rw [hdir, hrow]

theorem direction_runState_of_noEdge (s : State) (ws : List In12)
    (h : ∀ w ∈ ws, In12.rst w = false ∧ In12.edgeEvt w = false) :
    (runState s ws).direction = s.direction :=
  runState_keeps (fun t => t.direction = s.direction) (fun w => w.rst = false ∧ w.edgeEvt = false)
    (fun t w hw ht => (direction_after_of_noFlip t w hw.1 (.inr hw.2)).trans ht) s ws h rfl

/-! ## The loop -/

/-- From the end of the wait two cycles lead to `PH_ON`, with the cursor one further in the direction
of the second. -/
theorem off_adv_on (s : State) (w w' : In12) (hr : w.rst = false) (hr' : w'.rst = false)
    (hp : s.phase = .off) (hi : s.index < s.cfg.n) :
    (after (after s w) w').phase = .on ∧
      (after (after s w) w').index = next s.cfg.n s.index (after s w).direction := by
  obtain ⟨hphase, -, hindex, -⟩ := (schedulerRegs_eq_iff ..).1 (schedulerRegs_after_off s w hr hp)
  obtain ⟨hphase', -, hindex', -⟩ := (schedulerRegs_eq_iff ..).1
    (schedulerRegs_after_adv (after s w) w' hr' hphase (by rw [hindex, after_cfg]; exact hi))
  exact ⟨hphase', by rw [hindex', hindex, after_cfg]⟩

/-- An iteration: ON, a wait of as many ticks as the period says, OFF and ADV, with no edge. -/
theorem iteration_returns_to_on (s : State) (first last : In12) (mid : List In12) (w w' : In12)
    (hp : s.phase = .on) (hi : s.index < s.cfg.n)
    (hwords : ∀ v ∈ first :: (mid ++ [last]) ++ [w, w'], In12.rst v = false ∧ In12.edgeEvt v = false)
    (ht : last.tick = true) (hticks : ticks mid + 1 = s.period.toNat) :
    (runState s (first :: (mid ++ [last]) ++ [w, w'])).phase = .on ∧
      (runState s (first :: (mid ++ [last]) ++ [w, w'])).index = next s.cfg.n s.index s.direction := by
  obtain ⟨hwait, hturn⟩ := List.forall_mem_append.1 hwords
  obtain ⟨hr, he⟩ := hturn w (by simp)
  obtain ⟨hr', -⟩ := hturn w' (by simp)
  have hfree : ∀ v ∈ first :: (mid ++ [last]), In12.rst v = false := fun v hv => (hwait v hv).1
  obtain ⟨hr0, hfree'⟩ := List.forall_mem_cons.1 hfree
  obtain ⟨hmid, hlast⟩ := List.forall_mem_append.1 hfree'
  obtain ⟨hphase, hcnt, hindex, -⟩ :=
    (schedulerRegs_eq_iff ..).1 (schedulerRegs_after_on s first hr0 hp)
  obtain ⟨hoff, -, hindex', -⟩ := wait_ends (after s first) mid last hmid hphase
    (hlast last List.mem_cons_self) ht (by rw [hcnt]; exact hticks)
  have hcfg : (runState s (first :: (mid ++ [last]))).cfg = s.cfg := runState_cfg s _
  have hcursor : (runState s (first :: (mid ++ [last]))).index = s.index := hindex'.trans hindex
  have hdir := direction_runState_of_noEdge s _ hwait
  rw [runState_append]
  obtain ⟨hon, hnext⟩ := off_adv_on (runState s (first :: (mid ++ [last]))) w w' hr hr' hoff
    (by rw [hcursor, hcfg]; exact hi)
  rw [hcursor, hcfg, direction_after_of_noFlip _ w hr (.inr he), hdir] at hnext
  exact ⟨hon, hnext⟩

/-- Settles O50: the words are ON's, the wait's ticks but one, the last tick, OFF's and ADV's. -/
theorem iterationLastsPeriodPlusThree : Obligations.IterationLastsPeriodPlusThree := by
  intro s ws hinv hp hlen hws
  have ⟨hl, hi, ⟨hlow, _⟩, _⟩ := hinv
  obtain ⟨hpos, -⟩ := legal_bounds s.cfg hl
  rw [periodInt] at hlow
  have hload := word_toNat_eq_toInt s.period (by omega)
  have hquiet : ∀ w ∈ ws, In12.rst w = false ∧ In12.edgeEvt w = false := fun w hw => by
    obtain ⟨hr, -, he⟩ := hws w hw
    exact ⟨hr, he⟩
  have htick : ∀ w ∈ ws, In12.tick w = true := fun w hw => by
    obtain ⟨-, ht, -⟩ := hws w hw
    exact ht
  have hdir := direction_runState_of_noEdge s ws hquiet
  obtain ⟨first, rest, rfl⟩ := List.exists_cons_of_length_pos (show 0 < ws.length by omega)
  rw [List.length_cons] at hlen
  obtain ⟨last, w, w', hend⟩ := List.length_eq_three.1
    (show (rest.drop (s.period.toNat - 1)).length = 3 by rw [List.length_drop]; omega)
  have hmid : (rest.take (s.period.toNat - 1)).length = s.period.toNat - 1 := by
    rw [List.length_take]; omega
  have hsplit : rest = rest.take (s.period.toNat - 1) ++ [last, w, w'] := by
    rw [← hend, List.take_append_drop]
  have hwords : first :: rest = first :: (rest.take (s.period.toNat - 1) ++ [last]) ++ [w, w'] := by
    simpa using hsplit
  have hticks : ticks (rest.take (s.period.toNat - 1)) + 1 = s.period.toNat := by
    rw [ticks_eq_length _ fun v hv => htick v (List.mem_cons_of_mem _ (List.mem_of_mem_take hv)), hmid]
    omega
  obtain ⟨hon, hindex⟩ := iteration_returns_to_on s first last _ w w' hp hi (hwords ▸ hquiet)
    (htick last (by rw [hwords]; simp)) hticks
  rw [← hwords] at hon hindex
  exact ⟨_, runWords_eq s _ hl, hon, hindex, hdir⟩

/-- A wait with as many ticks coming as are left ends within them. -/
theorem wait_reaches_off (s : State) (ws : List In12) (hfree : ResetFree ws) (hp : s.phase = .wait)
    (hpos : 1 ≤ s.waitCnt.toNat) (hle : s.waitCnt.toNat ≤ ticks ws) :
    ∃ k, 1 ≤ k ∧ k ≤ ws.length ∧ (runState s (ws.take k)).phase = .off := by
  induction ws generalizing s with
  | nil => simp [ticks] at hle; omega
  | cons w ws ih =>
    obtain ⟨hr, hrest⟩ := List.forall_mem_cons.1 hfree
    rw [ticks_cons] at hle
    have hgo (v : Word) (hregs : (after s w).phase = .wait ∧ (after s w).waitCnt = v)
        (hv : 1 ≤ v.toNat) (hle : v.toNat ≤ ticks ws) :
        ∃ k, 1 ≤ k ∧ k ≤ (w :: ws).length ∧ (runState s ((w :: ws).take k)).phase = .off := by
      obtain ⟨hphase, rfl⟩ := hregs
      obtain ⟨k, hk, hlen, hoff⟩ := ih (after s w) hrest hphase hv hle
      exact ⟨k + 1, by omega, by simpa using hlen, hoff⟩
    cases ht : w.tick with
    | false =>
      obtain ⟨hphase, hwait, -⟩ := (schedulerRegs_eq_iff ..).1 (schedulerRegs_after_hold s w hr hp ht)
      exact hgo _ ⟨hphase.trans hp, hwait⟩ hpos (by simpa [ht] using hle)
    | true =>
      rw [ht, if_pos rfl] at hle
      by_cases hover : s.waitCnt.toNat ≤ 1
      · obtain ⟨hphase, -⟩ := (schedulerRegs_eq_iff ..).1 (schedulerRegs_after_end s w hr hp ht hover)
        exact ⟨1, le_rfl, by simp, hphase⟩
      · obtain ⟨hphase, hwait, -⟩ := (schedulerRegs_eq_iff ..).1
          (schedulerRegs_after_count s w hr hp ht (by omega))
        have hcnt := toNat_sub_one s.waitCnt hpos
        exact hgo _ ⟨hphase, hwait⟩ (by omega) (by omega)

/-- Outside the wait one cycle leads to the loop's next phase. -/
theorem phase_after_of_transient (s : State) (w : In12) (hr : w.rst = false) (hp : s.phase ≠ .wait) :
    (after s w).phase = phaseAfter s.phase := by
  have hphase : (after s w).phase = (schedulerSlice s w).2.2.1 :=
    congrArg (·.1) (after_schedulerRegs s w hr)
  rw [hphase, schedulerSlice]
  cases h : s.phase with
  | wait => exact absurd h hp
  | on | off | adv => rfl

/-- Settles O51: in the wait the counter is at most `MAX_PERIOD`, elsewhere one word is enough. -/
theorem loopMakesProgress : Obligations.LoopMakesProgress := by
  intro s ws hinv hfree hmany
  have ⟨hl, _, _, _, _, hwait, _⟩ := hinv
  have ⟨_, ⟨hmin, hinit, hmax⟩, _⟩ := hl
  by_cases hp : s.phase = .wait
  · obtain ⟨-, hpos, hle⟩ := hwait hp
    obtain ⟨k, hk, hlen, hoff⟩ := wait_reaches_off s ws hfree hp hpos (by omega)
    exact ⟨k, _, hk, hlen, runWords_eq s _ hl, by rw [hoff, hp]; rfl⟩
  · cases ws with
    | nil => simp [ticks] at hmany; omega
    | cons w ws =>
      exact ⟨1, _, le_rfl, by simp, runWords_eq s _ hl,
        phase_after_of_transient s w (hfree w List.mem_cons_self) hp⟩

/-! ## The speed at its minimum -/

/-- The byte `+` at `MIN_PERIOD` leaves it and reports the limit. -/
theorem after_plus_at_minimum (s : State) (w : In12) (hl : s.cfg.legal)
    (hw : In12.rst w = false ∧ In12.rxValid w = true ∧ In12.rxData w = 0x2B#8)
    (hmin : s.period.toInt = s.cfg.minPeriod) :
    (after s w).period.toInt = s.cfg.minPeriod ∧ (after s w).stCode = .limit := by
  obtain ⟨hr, hv, hplus⟩ := hw
  obtain ⟨-, hstep, -⟩ := legal_bounds s.cfg hl
  obtain ⟨hperiod, hreport⟩ := after_speed_of_plus s w hl hr hv hplus
  rw [hperiod, hreport, if_neg (by omega)]
  exact ⟨by omega, rfl⟩

/-- So do any number of them. -/
theorem runState_plus_at_minimum (s : State) (ws : List In12) (hl : s.cfg.legal)
    (hws : AllBytes 0x2B ws) (hmin : s.period.toInt = s.cfg.minPeriod) :
    (runState s ws).period.toInt = s.cfg.minPeriod ∧ (ws ≠ [] → (runState s ws).stCode = .limit) := by
  induction ws generalizing s with
  | nil => exact ⟨hmin, fun h => absurd rfl h⟩
  | cons w ws ih =>
    obtain ⟨hw, hrest⟩ := List.forall_mem_cons.1 hws
    obtain ⟨hperiod, hlimit⟩ := after_plus_at_minimum s w hl hw hmin
    obtain ⟨hperiod', hlimit'⟩ := ih (after s w) (by rw [after_cfg]; exact hl) hrest
      (by rw [after_cfg]; exact hperiod)
    rw [after_cfg] at hperiod'
    refine ⟨hperiod', fun _ => ?_⟩
    cases ws with
    | nil => exact hlimit
    | cons v vs => exact hlimit' (by simp)

/-- Settles O52. -/
theorem fasterAtMinimumStays : Obligations.FasterAtMinimumStays := by
  intro s ws hinv hmin hws
  exact ⟨_, runWords_eq s ws hinv.1, runState_plus_at_minimum s ws hinv.1 hws hmin⟩

end Sys2Proof.Machine
end

section
/-!
PROOFS. The source's testable properties (45_cycle.md R172), but for the laps of vector S3: how often a
run performs FLIP and ADV, where that leaves the cursor and the direction, and the runs of vectors S1
and S2 (95_test_vectors.md).
-/

namespace Sys2Proof.Machine

/-! ## How often a cycle performs FLIP and ADV -/

/-- An operation is counted within its slice. -/
theorem count_eq_count_ofSlice (i : Instr) (is : List Instr) :
    is.count i = (ofSlice i.slice is).count i :=
  (List.count_filter (by simp)).symm

theorem count_adv_select (s : State) (w : In12) (hr : w.rst = false) :
    (select s w).count .adv = if s.phase = .adv then 1 else 0 := by
  obtain ⟨hslice, -⟩ := ofSlice_select s w hr
  rw [count_eq_count_ofSlice, Instr.slice, hslice, List.count_singleton]
  simp [schedulerOp_eq_adv]

theorem count_flip_select (s : State) (w : In12) (hr : w.rst = false) :
    (select s w).count .flip = if s.armed = true ∧ w.edgeEvt = true then 1 else 0 := by
  have hdrop : (dropOps s w).count .flip = 0 :=
    List.count_eq_zero.2 (not_mem_dropOps .flip (by decide) s w)
  obtain ⟨-, hslice, -⟩ := ofSlice_select s w hr
  rw [count_eq_count_ofSlice, Instr.slice, hslice, List.count_append, hdrop, List.count_singleton]
  simp [directionOp_eq_flip]

/-- A cycle without reset performs FLIP exactly on an edge while armed. -/
theorem not_mem_select_flip (s : State) (w : In12) (hr : w.rst = false) :
    .flip ∉ select s w ↔ s.armed = false ∨ w.edgeEvt = false := by
  rw [mem_select_iff_directionOp .flip rfl (by decide), directionOp_eq_flip]
  cases s.armed <;> cases w.edgeEvt <;> simp [hr]

/-- A cycle steps the cursor if and only if it performs ADV. -/
theorem index_after (s : State) (w : In12) (hr : w.rst = false) (hi : s.index < s.cfg.n) :
    (after s w).index = walk s.cfg.n s.direction ((select s w).count .adv) s.index := by
  have hindex : (after s w).index = (schedulerSlice s w).2.2.2 :=
    congrArg (·.2.2.1) (after_schedulerRegs s w hr)
  rw [hindex, count_adv_select s w hr]
  obtain ⟨hp, -, hrow⟩ | ⟨hp, -, -, hrow⟩ | ⟨hp, -, -, -, hrow⟩ | ⟨hp, -, -, -, hrow⟩ |
    ⟨hp, -, hrow⟩ | ⟨hp, -, hrow⟩ := scheduler_rows s w <;> simp only [hrow, hp]
  case inr.inr.inr.inr.inr => exact advanceIndex_of_lt s hi
  all_goals rfl

/-- Walks one after another are one walk. -/
theorem walk_add (n : Nat) (d : Direction) (j k p : Nat) :
    walk n d (j + k) p = walk n d k (walk n d j p) := by
  rw [walk, Nat.add_comm, Function.iterate_add_apply]
  rfl

/-- A run without FLIP keeps the direction and walks one position for each ADV (41_cursor.md R104). -/
theorem run_walks (s : State) (ws : List In12) (hl : s.cfg.legal) (hi : s.index < s.cfg.n)
    (hfree : ResetFree ws) (hflip : .flip ∉ runOps s ws) :
    (runState s ws).direction = s.direction ∧
      (runState s ws).index = walk s.cfg.n s.direction ((runOps s ws).count .adv) s.index := by
  induction ws generalizing s with
  | nil => exact ⟨rfl, rfl⟩
  | cons w ws ih =>
    obtain ⟨hr, hrest⟩ := List.forall_mem_cons.1 hfree
    rw [runOps_cons_after s w ws hl, List.mem_append, not_or] at hflip
    have hdir := direction_after_of_noFlip s w hr ((not_mem_select_flip s w hr).1 hflip.1)
    obtain ⟨hdir', hindex'⟩ := ih (after s w) (by rw [after_cfg]; exact hl)
      (by rw [after_cfg]; exact index_after_lt s w hl hi) hrest hflip.2
    rw [runOps_cons_after s w ws hl, List.count_append, walk_add, ← index_after s w hr hi]
    rw [hdir, after_cfg] at hindex'
    exact ⟨hdir'.trans hdir, hindex'⟩

/-- Property 1 of R172. -/
theorem cyclicIndexSequence : CyclicIndexSequence := by
  intro s ws hinv hfree hflip
  have ⟨hl, hi, _⟩ := hinv
  obtain ⟨hdir, hindex⟩ := run_walks s ws hl hi hfree hflip
  have hwalk := walk_eq_emod s.cfg.n s.direction ((runOps s ws).count .adv) s.index hi
  rw [← hindex] at hwalk
  refine ⟨_, runWords_eq s ws hl, hdir, fun hf => ?_, fun hb => ?_⟩
  · refine Int.ofNat_inj.1 (hwalk.trans ?_)
    simp [hf, stride]
  · rw [hwalk, hb]
    simp only [stride]
    ring_nf

/-- Property 2 of R172. -/
theorem oneLineOnWhenSettled : OneLineOnWhenSettled := by
  intro s h hsettled a
  obtain ⟨-, hled⟩ | ⟨hnot, -⟩ := led_of_inv s (inv_of_reachable s h)
  · simp [hled]
  · exact absurd hsettled hnot

/-! ## Presses -/

/-- A cooldown that goes on performs no FLIP (42_direction.md R117 (a)). -/
theorem count_flip_of_cooldown (s : State) (ws : List In12) (hl : s.cfg.legal)
    (hfree : ResetFree ws) (ha : s.armed = false) (hlt : ticks ws < s.dbCnt) :
    (runOps s ws).count .flip = 0 := by
  induction ws generalizing s with
  | nil => rfl
  | cons w ws ih =>
    obtain ⟨hr, hrest⟩ := List.forall_mem_cons.1 hfree
    rw [ticks_cons] at hlt
    obtain ⟨-, harmed, hsum⟩ := cooldown_goes_on s [w] (List.forall_mem_singleton.2 hr) ha
      (by rw [ticks_cons]; simp only [ticks, List.countP_nil]; omega)
    rw [ticks_cons] at hsum
    simp only [ticks, List.countP_nil, runState_cons, runState_nil] at hsum harmed
    rw [runOps_cons_after s w ws hl, List.count_append, count_flip_select s w hr,
      ih (after s w) (by rw [after_cfg]; exact hl) hrest harmed (by rw [ticks] at hlt ⊢; omega)]
    simp [ha]

/-- Property 3 of R172. -/
theorem oneFlipPerPress : OneFlipPerPress := by
  intro s w ws hl ha hr he hfree hlt
  obtain ⟨hdir, harmed, hcnt⟩ := (directionRegs_eq_iff ..).1 (directionRegs_after_flip s w hr ha he)
  obtain ⟨hdir', harmed', -⟩ := cooldown_goes_on (after s w) ws hfree harmed (by omega)
  refine ⟨_, runWords_eq s _ hl, hdir'.trans hdir, harmed', ?_⟩
  rw [runOps_cons_after s w ws hl, List.count_append, count_flip_select s w hr,
    count_flip_of_cooldown (after s w) ws (by rw [after_cfg]; exact hl) hfree harmed (by omega)]
  simp [ha, he]

/-- Without an edge an armed block stays as it is and performs no FLIP. -/
theorem armed_without_edge (s : State) (ws : List In12) (hl : s.cfg.legal) (ha : s.armed = true)
    (hws : ∀ w ∈ ws, In12.rst w = false ∧ In12.edgeEvt w = false) :
    directionRegs (runState s ws) = directionRegs s ∧ (runOps s ws).count .flip = 0 := by
  induction ws generalizing s with
  | nil => exact ⟨rfl, rfl⟩
  | cons w ws ih =>
    obtain ⟨⟨hr, he⟩, hrest⟩ := List.forall_mem_cons.1 hws
    have hregs := directionRegs_after_holdArmed s w hr ha he
    obtain ⟨-, harmed, -⟩ := (directionRegs_eq_iff ..).1 hregs
    obtain ⟨hregs', hcount⟩ := ih (after s w) (by rw [after_cfg]; exact hl) (harmed.trans ha) hrest
    refine ⟨hregs'.trans hregs, ?_⟩
    rw [runOps_cons_after s w ws hl, List.count_append, count_flip_select s w hr, hcount]
    simp [he]

/-- Property 4 of R172. -/
theorem rearmedEdgeFlipsOnce : RearmedEdgeFlipsOnce := by
  intro s w w' ws hl hrearm hws hr' he'
  rw [mem_select_iff_directionOp .rearm rfl (by decide), directionOp_eq_rearm] at hrearm
  obtain ⟨hr, ha, ht, hover⟩ := hrearm
  have hl' : (after s w).cfg.legal := by rw [after_cfg]; exact hl
  obtain ⟨hdir, harmed, -⟩ :=
    (directionRegs_eq_iff ..).1 (directionRegs_after_rearm s w hr ha ht hover)
  obtain ⟨hregs, hcount⟩ := armed_without_edge (after s w) ws hl' harmed hws
  obtain ⟨hdir', harmed', -⟩ := (directionRegs_eq_iff ..).1 hregs
  obtain ⟨hdir'', harmed'', -⟩ := (directionRegs_eq_iff ..).1
    (directionRegs_after_flip (runState (after s w) ws) w' hr' (harmed'.trans harmed) he')
  refine ⟨⟨_, runWords_eq s _ hl, harmed'.trans harmed, hdir'.trans hdir⟩,
    _, runWords_eq s _ hl, ?_⟩
  rw [runState_cons, runState_append, runState_cons, runState_nil, runOps_cons_after s w _ hl,
    runOps_append _ ws _ hl', List.count_append, List.count_append, count_flip_select s w hr, hcount,
    runOps_cons_after _ w' _ (by rw [runState_cfg]; exact hl'), List.count_append,
    count_flip_select _ w' hr']
  exact ⟨by rw [hdir'', hdir', hdir], harmed'', by simp [ha, harmed', harmed, he', runOps]⟩

/-- Property 5 of R172. -/
theorem periodStaysInBounds : PeriodStaysInBounds :=
  ⟨periodInBounds, fun s ws hl hmin hws =>
    ⟨_, runWords_eq s ws hl, (runState_plus_at_minimum s ws hl hws hmin).1⟩⟩

/-- Property 7 of R172. -/
theorem invalidByteIsReportedOnce : InvalidByteIsReportedOnce := by
  intro s w w' hl hr hv hplus hminus hr' hv'
  obtain ⟨hperiod, hreport⟩ := after_speed_of_invalid s w hr hv hplus hminus
  obtain ⟨hperiod', hreport'⟩ := after_speed_of_noByte (after s w) w' hr' hv'
  refine ⟨_, _, runWords_eq s [w] hl, hperiod, hreport,
    direction_after_of_noFlip s w hr, runWords_eq s [w, w'] hl, hperiod'.trans hperiod, hreport'⟩

/-! ## The N = 9 scenario -/

/-- A run of `+` takes `STEP` off the period for each, down to `MIN_PERIOD`. -/
theorem period_of_plusses (s : State) (ws : List In12) (hl : s.cfg.legal) (hws : AllBytes 0x2B ws)
    (hmin : s.cfg.minPeriod ≤ s.period.toInt) :
    (runState s ws).period.toInt =
      max s.cfg.minPeriod (s.period.toInt - s.cfg.step * (ws.length : Int)) := by
  induction ws generalizing s with
  | nil => simp [hmin]
  | cons w ws ih =>
    obtain ⟨⟨hr, hv, hplus⟩, hrest⟩ := List.forall_mem_cons.1 hws
    obtain ⟨-, hstep, -⟩ := legal_bounds s.cfg hl
    obtain ⟨hperiod, -⟩ := after_speed_of_plus s w hl hr hv hplus
    have hnext := ih (after s w) (by rw [after_cfg]; exact hl) hrest
      (by rw [after_cfg, hperiod]; exact le_max_left _ _)
    have hpos : 0 ≤ s.cfg.step * (ws.length : Int) := by positivity
    rw [runState_cons, hnext, hperiod, after_cfg, List.length_cons]
    push_cast
    rw [mul_add, mul_one]
    omega

/-- S1: the `k`-th `+` from 500, and its report. -/
theorem plusses_from_500 (c : Config) (hl : c.legal) (href : IsReference c) (ws : List In12)
    (hws : AllBytes 0x2B ws) (hpos : 1 ≤ ws.length) (hlen : ws.length ≤ 10) :
    (runState (State.resetWith c) ws).period.toInt = max 50 (500 - 50 * (ws.length : Int)) ∧
      (runState (State.resetWith c) ws).stCode = if ws.length ≤ 8 then .changed else .limit := by
  obtain ⟨hn, hmin, hmax, hstep, hinit⟩ := href
  have hperiod (vs : List In12) (hvs : AllBytes 0x2B vs) :
      (runState (State.resetWith c) vs).period.toInt = max 50 (500 - 50 * (vs.length : Int)) := by
    have h500 : (State.resetWith c).period.toInt = 500 :=
      (toInt_ofInt_initPeriod c hl).trans hinit
    rw [period_of_plusses _ vs hl hvs (by rw [h500, resetWith_cfg, hmin]; decide), h500,
      resetWith_cfg, hmin, hstep]
  refine ⟨hperiod ws hws, ?_⟩
  obtain rfl | ⟨vs, w, rfl⟩ := List.eq_nil_or_concat' ws
  · simp at hpos
  · obtain ⟨hvs, hw⟩ := List.forall_mem_append.1 hws
    obtain ⟨hr, hv, hplus⟩ := hw w List.mem_cons_self
    have hbefore := hperiod vs hvs
    have hl' : (runState (State.resetWith c) vs).cfg.legal := by rw [runState_cfg]; exact hl
    rw [List.length_append, List.length_singleton] at hlen ⊢
    rw [runState_append, runState_cons, runState_nil,
      (after_speed_of_plus _ w hl' hr hv hplus).2, hbefore, runState_cfg, resetWith_cfg, hstep, hmin]
    exact if_congr (by omega) rfl rfl

/-- S2: a `-` after ten `+`. -/
theorem minus_after_ten_plusses (c : Config) (hl : c.legal) (href : IsReference c) (ws : List In12)
    (w : In12) (hws : AllBytes 0x2B ws) (hlen : ws.length = 10) (hw : AllBytes 0x2D [w]) :
    (runState (State.resetWith c) (ws ++ [w])).period.toInt = 100 ∧
      (runState (State.resetWith c) (ws ++ [w])).stCode = .changed := by
  obtain ⟨hr, hv, hminus⟩ := hw w List.mem_cons_self
  have hl' : (runState (State.resetWith c) ws).cfg.legal := by rw [runState_cfg]; exact hl
  have h50 := (plusses_from_500 c hl href ws hws (by omega) (by omega)).1
  obtain ⟨-, -, hmax, hstep, -⟩ := href
  obtain ⟨hperiod, hreport⟩ := after_speed_of_minus _ w hl' hr hv hminus
  rw [hlen] at h50
  rw [h50, runState_cfg, resetWith_cfg, hmax, hstep] at hperiod hreport
  rw [runState_append]
  exact ⟨hperiod, hreport⟩

end Sys2Proof.Machine
end

section
/-!
PROOFS. The runs of vector S3 (95_test_vectors.md), lap by lap, and with them all of the source's
testable properties (45_cycle.md R172); the same-cycle cases (45_cycle.md R164).
-/

namespace Sys2Proof.Machine

/-! ## The words of a lap -/

/-- The words of one group of vector S3: `MS 500` and `3 * IDLE`. -/
def lap : List In12 := scriptWords [.ms 500, .words 3 [.idle]]

theorem lap_eq : lap = List.replicate 500 0x400#12 ++ [0#12, 0#12, 0#12] := rfl

theorem lapWords_zero (mirror : Bool) :
    lapWords mirror 0 = 0#12 :: (if mirror then [0x200#12] else []) := by
  cases mirror <;> rfl

theorem lapWords_succ (mirror : Bool) (k : Nat) :
    lapWords mirror (k + 1) = lapWords mirror k ++ lap := by
  simp only [lapWords, lap, scriptWords, List.replicate_succ', List.flatten_append,
    List.map_append, List.map_cons, List.map_nil, List.flatten_cons, List.flatten_nil, List.append_nil,
    List.append_assoc]

theorem eq_of_mem_lap (w : In12) (hw : w ∈ lap) : w = 0x400#12 ∨ w = 0#12 := by
  rw [lap_eq] at hw
  simp only [List.mem_append, List.mem_replicate, List.mem_cons, List.not_mem_nil, or_false] at hw
  obtain ⟨-, rfl⟩ | rfl | rfl | rfl := hw
  · exact .inl rfl
  all_goals exact .inr rfl

/-- A lap holds no reset, no edge and no byte. -/
theorem lap_noEdge : ∀ w ∈ lap, In12.rst w = false ∧ In12.edgeEvt w = false := fun w hw => by
  obtain rfl | rfl := eq_of_mem_lap w hw <;> exact ⟨rfl, rfl⟩

theorem lap_noByte : ∀ w ∈ lap, In12.rst w = false ∧ In12.rxValid w = false := fun w hw => by
  obtain rfl | rfl := eq_of_mem_lap w hw <;> exact ⟨rfl, rfl⟩

/-! ## What a lap does -/

/-- Without a byte the period stays. -/
theorem period_runState_of_noByte (s : State) (ws : List In12)
    (h : ∀ w ∈ ws, In12.rst w = false ∧ In12.rxValid w = false) :
    (runState s ws).period = s.period :=
  runState_keeps (fun t => t.period = s.period) (fun w => w.rst = false ∧ w.rxValid = false)
    (fun t w hw ht => (after_speed_of_noByte t w hw.1 hw.2).1.trans ht) s ws h rfl

/-- A wait that goes on performs no ADV. -/
theorem count_adv_of_wait (s : State) (ws : List In12) (hl : s.cfg.legal) (hfree : ResetFree ws)
    (hp : s.phase = .wait) (hlt : ticks ws < s.waitCnt.toNat) :
    (runOps s ws).count .adv = 0 := by
  induction ws generalizing s with
  | nil => rfl
  | cons w ws ih =>
    obtain ⟨hr, hrest⟩ := List.forall_mem_cons.1 hfree
    rw [ticks_cons] at hlt
    obtain ⟨hphase, hsum, -⟩ := wait_goes_on s [w] (List.forall_mem_singleton.2 hr) hp
      (by rw [ticks_cons]; simp only [ticks, List.countP_nil]; omega)
    rw [ticks_cons] at hsum
    simp only [ticks, List.countP_nil, runState_cons, runState_nil] at hsum hphase
    rw [runOps_cons_after s w ws hl, List.count_append, count_adv_select s w hr,
      ih (after s w) (by rw [after_cfg]; exact hl) hrest hphase (by rw [ticks] at hlt ⊢; omega)]
    simp [hp]

/-- Nor does its last cycle. -/
theorem count_adv_of_whole_wait (s : State) (ws : List In12) (w : In12) (hl : s.cfg.legal)
    (hfree : ResetFree ws) (hr : w.rst = false) (hp : s.phase = .wait)
    (hlast : ticks ws + 1 = s.waitCnt.toNat) : (runOps s (ws ++ [w])).count .adv = 0 := by
  obtain ⟨hphase, -⟩ := wait_goes_on s ws hfree hp (by omega)
  rw [runOps_append s ws [w] hl, List.count_append,
    count_adv_of_wait s ws hl hfree hp (by omega),
    runOps_cons_after _ w [] (by rw [runState_cfg]; exact hl), List.count_append,
    count_adv_select _ w hr, hphase]
  rfl

/-- OFF, ADV and ON without an edge or a byte: one advance, and a wait loaded with the period. -/
theorem off_adv_on_wait (s : State) (a b c : In12) (hl : s.cfg.legal) (hi : s.index < s.cfg.n)
    (hp : s.phase = .off) (hedge : ∀ w ∈ [a, b, c], In12.rst w = false ∧ In12.edgeEvt w = false)
    (hbyte : ∀ w ∈ [a, b, c], In12.rst w = false ∧ In12.rxValid w = false) :
    (runState s [a, b, c]).phase = .wait ∧ (runState s [a, b, c]).waitCnt = s.period ∧
      (runState s [a, b, c]).index = next s.cfg.n s.index s.direction ∧
      (runOps s [a, b, c]).count .adv = 1 := by
  obtain ⟨⟨ha, hea⟩, hrest⟩ := List.forall_mem_cons.1 hedge
  obtain ⟨⟨hb, -⟩, hlast⟩ := List.forall_mem_cons.1 hrest
  obtain ⟨hc, -⟩ := hlast c List.mem_cons_self
  have hadv := (phase_after_of_transient s a ha (by simp [hp])).trans (congrArg phaseAfter hp)
  obtain ⟨hon, hindex⟩ := off_adv_on s a b ha hb hp hi
  rw [direction_after_of_noFlip s a ha (.inr hea)] at hindex
  obtain ⟨hwait, hcnt, hindex', -⟩ :=
    (schedulerRegs_eq_iff ..).1 (schedulerRegs_after_on _ c hc hon)
  have hperiod : (runState s [a, b]).period = s.period :=
    period_runState_of_noByte s [a, b] fun w hw => hbyte w (List.mem_append_left [c] hw)
  refine ⟨hwait, hcnt.trans hperiod, hindex'.trans hindex, ?_⟩
  rw [runOps_cons_after s a _ hl, runOps_cons_after _ b _ (by rw [after_cfg]; exact hl),
    runOps_cons_after _ c _ (by rw [after_cfg, after_cfg]; exact hl), List.count_append,
    List.count_append, List.count_append, count_adv_select s a ha, count_adv_select _ b hb,
    count_adv_select _ c hc, hp, hadv, hon]
  rfl

/-- A wait of 500 ends with 500 ticks in a row, and performs no ADV. -/
theorem wait_of_500_ends (s : State) (hl : s.cfg.legal) (hp : s.phase = .wait)
    (hcnt : s.waitCnt.toNat = 500) :
    (runState s (List.replicate 500 0x400#12)).phase = .off ∧
      (runState s (List.replicate 500 0x400#12)).index = s.index ∧
      (runOps s (List.replicate 500 0x400#12)).count .adv = 0 := by
  have hfree : ResetFree (List.replicate 499 0x400#12) := fun w hw => by
    rw [List.eq_of_mem_replicate hw]; rfl
  have hticks : ticks (List.replicate 499 0x400#12) + 1 = s.waitCnt.toNat := by
    rw [ticks_eq_length _ fun w hw => by rw [List.eq_of_mem_replicate hw]; rfl,
      List.length_replicate, hcnt]
  obtain ⟨hoff, -, hindex, -⟩ := wait_ends s _ 0x400#12 hfree hp rfl rfl hticks
  have hnone := count_adv_of_whole_wait s _ 0x400#12 hl hfree rfl hp hticks
  rw [List.replicate_succ']
  exact ⟨hoff, hindex, hnone⟩

/-- What a lap of S3 starts and ends with: a wait of 500 just loaded, in the direction `d`. -/
structure LapStart (d : Direction) (s : State) : Prop where
  inv : Inv s
  phase : s.phase = .wait
  waitCnt : s.waitCnt.toNat = 500
  period : s.period.toInt = 500
  direction : s.direction = d

/-- A lap steps the cursor once and ends as it started. -/
theorem lap_steps_once (d : Direction) (s : State) (h : LapStart d s) :
    LapStart d (runState s lap) ∧ (runState s lap).index = next s.cfg.n s.index d ∧
      (runOps s lap).count .adv = 1 := by
  obtain ⟨hinv, hp, hcnt, hperiod, hdir⟩ := h
  have ⟨hl, hi, _⟩ := hinv
  have hinv' := inv_runState s lap hinv
  have hdir' := direction_runState_of_noEdge s lap lap_noEdge
  have hperiod' := period_runState_of_noByte s lap lap_noByte
  have hedge := lap_noEdge
  have hbyte := lap_noByte
  obtain ⟨hoff, hindex, hnone⟩ := wait_of_500_ends s hl hp hcnt
  rw [lap_eq] at hinv' hdir' hperiod' hedge hbyte ⊢
  generalize List.replicate 500 0x400#12 = wait at *
  obtain ⟨hedgeWait, hedgeTurn⟩ := List.forall_mem_append.1 hedge
  obtain ⟨hbyteWait, hbyteTurn⟩ := List.forall_mem_append.1 hbyte
  have hcfg : (runState s wait).cfg = s.cfg := runState_cfg s wait
  obtain ⟨hwait, hload, hnext, hone⟩ := off_adv_on_wait (runState s wait) 0#12 0#12 0#12
    (by rw [hcfg]; exact hl) (by rw [hindex, hcfg]; exact hi) hoff hedgeTurn hbyteTurn
  rw [← runState_append, period_runState_of_noByte s wait hbyteWait] at hload
  rw [← runState_append, hcfg, hindex, direction_runState_of_noEdge s wait hedgeWait, hdir] at hnext
  rw [← runState_append] at hwait
  have h500 := word_toNat_eq_toInt s.period (by omega)
  refine ⟨⟨hinv', hwait, by rw [hload]; omega, by rw [hperiod', hperiod], hdir'.trans hdir⟩, hnext, ?_⟩
  rw [runOps_append s _ _ hl, List.count_append, hnone, hone]

/-- Before the first lap: ON, and in the mirror run the edge that turns the direction. -/
theorem first_lapStart (c : Config) (hl : c.legal) (h500 : c.initPeriod = 500) (mirror : Bool) :
    LapStart (if mirror then .backward else .forward)
        (runState (State.resetWith c) (lapWords mirror 0)) ∧
      (runState (State.resetWith c) (lapWords mirror 0)).index = 0 ∧
      (runOps (State.resetWith c) (lapWords mirror 0)).count .adv = 0 := by
  have hinv := inv_runState _ (lapWords mirror 0) (invariantAtReset c hl)
  obtain ⟨hwait, hload, hindex, -⟩ :=
    (schedulerRegs_eq_iff ..).1 (schedulerRegs_after_on (State.resetWith c) 0#12 rfl rfl)
  obtain ⟨hdir, harmed, -⟩ := (directionRegs_eq_iff ..).1
    (directionRegs_after_holdArmed (State.resetWith c) 0#12 rfl rfl rfl)
  have hperiod := (after_speed_of_noByte (State.resetWith c) 0#12 rfl rfl).1
  have hcnt : (after (State.resetWith c) 0#12).waitCnt.toNat = 500 := by
    have := toNat_ofInt_initPeriod c hl
    rw [hload, resetWith_period]
    omega
  have hread : (after (State.resetWith c) 0#12).period.toInt = 500 := by
    rw [hperiod, resetWith_period, toInt_ofInt_initPeriod c hl, h500]
  have hcount : (select (State.resetWith c) 0#12).count .adv = 0 := by
    rw [count_adv_select _ _ rfl]; rfl
  rw [lapWords_zero] at hinv ⊢
  rw [runOps_cons_after _ _ _ hl, List.count_append, hcount]
  cases mirror with
  | false => exact ⟨⟨hinv, hwait, hcnt, hread, hdir⟩, hindex, rfl⟩
  | true =>
    obtain ⟨hwait', hload', hindex', -⟩ := (schedulerRegs_eq_iff ..).1
      (schedulerRegs_after_hold (after (State.resetWith c) 0#12) 0x200#12 rfl hwait rfl)
    obtain ⟨hdir', -⟩ := (directionRegs_eq_iff ..).1
      (directionRegs_after_flip (after (State.resetWith c) 0#12) 0x200#12 rfl harmed rfl)
    have hperiod' := (after_speed_of_noByte (after (State.resetWith c) 0#12) 0x200#12 rfl rfl).1
    refine ⟨⟨hinv, hwait'.trans hwait, (congrArg BitVec.toNat hload').trans hcnt,
      (congrArg BitVec.toInt hperiod').trans hread, hdir'.trans (by rw [hdir]; rfl)⟩,
      hindex'.trans hindex, ?_⟩
    rw [if_pos rfl, runOps_cons_after _ _ _ (by rw [after_cfg]; exact hl), List.count_append,
      count_adv_select _ _ rfl, hwait]
    rfl

/-- S3: after `k` laps the cursor has gone `k` positions. -/
theorem lapStart_after (c : Config) (hl : c.legal) (href : IsReference c) (mirror : Bool) (k : Nat) :
    LapStart (if mirror then .backward else .forward)
        (runState (State.resetWith c) (lapWords mirror k)) ∧
      ((runState (State.resetWith c) (lapWords mirror k)).index : Int) =
        (if mirror then -(k : Int) else k) % 9 ∧
      (runOps (State.resetWith c) (lapWords mirror k)).count .adv = k := by
  obtain ⟨hn, -, -, -, h500⟩ := href
  induction k with
  | zero =>
    obtain ⟨hstart, hindex, hcount⟩ := first_lapStart c hl h500 mirror
    exact ⟨hstart, by rw [hindex]; cases mirror <;> rfl, hcount⟩
  | succ k ih =>
    obtain ⟨hstart, hindex, hcount⟩ := ih
    have hring : (runState (State.resetWith c) (lapWords mirror k)).cfg.n = 9 :=
      (congrArg Config.n (runState_cfg _ _)).trans hn
    have hi : (runState (State.resetWith c) (lapWords mirror k)).index < 9 := by
      obtain ⟨-, hlt, -⟩ := hstart.inv
      rwa [hring] at hlt
    obtain ⟨hstart', hindex', hcount'⟩ := lap_steps_once _ _ hstart
    rw [lapWords_succ, runState_append, runOps_append _ _ _ hl, List.count_append, hcount, hcount']
    refine ⟨hstart', ?_, rfl⟩
    rw [hindex', hring, next_eq_emod 9 _ _ hi, hindex]
    cases mirror with
    | false => simp only [stride, Bool.false_eq_true, if_false]; push_cast; omega
    | true => simp only [stride, if_true]; push_cast; omega

/-- Property 6 of R172. -/
theorem nineScenario : NineScenario := by
  intro c hl href
  refine ⟨fun ws hws hpos hlen =>
      ⟨_, runWords_eq _ ws hl, plusses_from_500 c hl href ws hws hpos hlen⟩,
    fun ws w hws hlen hw =>
      ⟨_, runWords_eq _ _ hl, minus_after_ten_plusses c hl href ws w hws hlen hw⟩,
    fun mirror k => ?_⟩
  obtain ⟨⟨hinv, hphase, hcnt, hperiod, hdir⟩, hindex, hcount⟩ := lapStart_after c hl href mirror k
  obtain ⟨-, hled⟩ | ⟨hnot, -⟩ := led_of_inv _ hinv
  · exact ⟨_, runWords_eq _ _ hl, hcount, hindex, hdir, hphase, hperiod, hcnt,
      fun a => by rw [hled, Memory.level_onehot]⟩
  · exact absurd (.inl hphase) hnot

/-- Settles O60: the seven properties, each under its own name. -/
theorem sourcePropertiesHold : Obligations.SourcePropertiesHold :=
  ⟨cyclicIndexSequence, oneLineOnWhenSettled, oneFlipPerPress, rearmedEdgeFlipsOnce,
    periodStaysInBounds, nineScenario, invalidByteIsReportedOnce⟩

/-! ## The same-cycle cases -/

/-- What a tick does in the wait. -/
theorem wait_tick (s : State) (w : In12) (hr : w.rst = false) (hp : s.phase = .wait)
    (ht : w.tick = true) :
    (2 ≤ s.waitCnt.toNat →
      (after s w).phase = .wait ∧ (after s w).waitCnt.toNat = s.waitCnt.toNat - 1) ∧
    (s.waitCnt.toNat ≤ 1 → (after s w).phase = .off ∧ (after s w).waitCnt = 0) := by
  refine ⟨fun hleft => ?_, fun hover => ?_⟩
  · obtain ⟨hphase, hcnt, -⟩ :=
      (schedulerRegs_eq_iff ..).1 (schedulerRegs_after_count s w hr hp ht hleft)
    exact ⟨hphase, by rw [hcnt, toNat_sub_one _ (by omega)]⟩
  · obtain ⟨hphase, hcnt, -⟩ :=
      (schedulerRegs_eq_iff ..).1 (schedulerRegs_after_end s w hr hp ht hover)
    exact ⟨hphase, hcnt⟩

/-- What a tick does in the cooldown. -/
theorem cooldown_tick (s : State) (w : In12) (hr : w.rst = false) (ha : s.armed = false)
    (ht : w.tick = true) :
    (2 ≤ s.dbCnt → (after s w).armed = false ∧ (after s w).dbCnt = s.dbCnt - 1) ∧
    (s.dbCnt ≤ 1 → (after s w).armed = true ∧ (after s w).dbCnt = 0) :=
  ⟨fun hleft => ((directionRegs_eq_iff ..).1 (directionRegs_after_count s w hr ha ht hleft)).2,
    fun hover => ((directionRegs_eq_iff ..).1 (directionRegs_after_rearm s w hr ha ht hover)).2⟩

/-- FLIP and ADV in one cycle. -/
theorem sameCycle_flip_adv (s : State) (w : In12) (hl : s.cfg.legal) (hi : s.index < s.cfg.n)
    (hr : w.rst = false) (hp : s.phase = .adv) (ha : s.armed = true) (he : w.edgeEvt = true) :
    ∃ t, runWords s [w] = .next t ∧
      t.index = next s.cfg.n s.index s.direction ∧ t.direction = flipped s.direction ∧
      ∀ ws, ResetFree ws → .flip ∉ runOps t ws → (runOps t ws).count .adv = 1 →
        ∃ u, runWords t ws = .next u ∧ u.index = next s.cfg.n t.index (flipped s.direction) := by
  obtain ⟨-, -, hindex, -⟩ :=
    (schedulerRegs_eq_iff ..).1 (schedulerRegs_after_adv s w hr hp hi)
  obtain ⟨hdir, -⟩ := (directionRegs_eq_iff ..).1 (directionRegs_after_flip s w hr ha he)
  have hl' : (after s w).cfg.legal := by rw [after_cfg]; exact hl
  refine ⟨_, runWords_eq s [w] hl, hindex, hdir, fun ws hfree hflip hone =>
    ⟨_, runWords_eq (after s w) ws hl', ?_⟩⟩
  have hwalk := (run_walks (after s w) ws hl' (by rw [after_cfg]; exact index_after_lt s w hl hi)
    hfree hflip).2
  have hone' : (runOps (after s w) ws).count .adv = 1 := hone
  rw [hone', after_cfg, hdir] at hwalk
  exact hwalk

/-- FLIP and OFF in one cycle. -/
theorem sameCycle_flip_off (s : State) (w w' : In12) (hl : s.cfg.legal) (hi : s.index < s.cfg.n)
    (hr : w.rst = false) (hr' : w'.rst = false) (hp : s.phase = .off) (ha : s.armed = true)
    (he : w.edgeEvt = true) :
    ∃ t, runWords s [w, w'] = .next t ∧ t.index = next s.cfg.n s.index (flipped s.direction) := by
  obtain ⟨hdir, -⟩ := (directionRegs_eq_iff ..).1 (directionRegs_after_flip s w hr ha he)
  exact ⟨_, runWords_eq s _ hl, by rw [← hdir]; exact (off_adv_on s w w' hr hr' hp hi).2⟩

/-- FASTER or SLOWER and ON in one cycle. -/
theorem sameCycle_byte_on (s : State) (w w' : In12) (hl : s.cfg.legal) (hr : w.rst = false)
    (hr' : w'.rst = false) (hp : s.phase = .on) (hv : w.rxValid = true)
    (hdata : w.rxData = 0x2B#8 ∨ w.rxData = 0x2D#8) :
    ∃ t, runWords s [w] = .next t ∧ t.waitCnt = s.period ∧
      t.period.toInt = (if w.rxData = 0x2B#8 then max s.cfg.minPeriod (s.period.toInt - s.cfg.step)
        else min s.cfg.maxPeriod (s.period.toInt + s.cfg.step)) ∧
      ∀ ws, (∀ v ∈ ws, In12.rst v = false ∧ In12.rxValid v = false) →
        ∃ u, runWords t ws = .next u ∧
          (u.phase = .on → ∃ v, runWords t (ws ++ [w']) = .next v ∧ v.waitCnt = t.period) := by
  obtain ⟨-, hload, -⟩ := (schedulerRegs_eq_iff ..).1 (schedulerRegs_after_on s w hr hp)
  have hl' : (after s w).cfg.legal := by rw [after_cfg]; exact hl
  have hperiod : (after s w).period.toInt =
      (if w.rxData = 0x2B#8 then max s.cfg.minPeriod (s.period.toInt - s.cfg.step)
        else min s.cfg.maxPeriod (s.period.toInt + s.cfg.step)) := by
    obtain hplus | hminus := hdata
    · rw [if_pos hplus, (after_speed_of_plus s w hl hr hv hplus).1]
    · rw [if_neg (by rw [hminus]; decide), (after_speed_of_minus s w hl hr hv hminus).1]
  refine ⟨_, runWords_eq s [w] hl, hload, hperiod, fun ws hws =>
    ⟨_, runWords_eq (after s w) ws hl', fun hon => ⟨_, runWords_eq (after s w) _ hl', ?_⟩⟩⟩
  obtain ⟨-, hload', -⟩ :=
    (schedulerRegs_eq_iff ..).1 (schedulerRegs_after_on (runState (after s w) ws) w' hr' hon)
  rw [runState_append]
  exact hload'.trans (period_runState_of_noByte (after s w) ws hws)

/-- An edge and the cooldown's last tick in one cycle. -/
theorem sameCycle_edge_rearm (s : State) (w w' : In12) (hl : s.cfg.legal) (hr : w.rst = false)
    (hr' : w'.rst = false) (ha : s.armed = false) (he : w.edgeEvt = true) (ht : w.tick = true)
    (hover : s.dbCnt ≤ 1) :
    .drop ∈ select s w ∧ .rearm ∈ select s w ∧
      ∃ t, runWords s [w] = .next t ∧ t.direction = s.direction ∧ t.armed = true ∧
        (w'.edgeEvt = true →
          ∃ u, runWords s [w, w'] = .next u ∧ u.direction = flipped s.direction ∧
            u.armed = false) := by
  obtain ⟨hdir, harmed, -⟩ :=
    (directionRegs_eq_iff ..).1 (directionRegs_after_rearm s w hr ha ht hover)
  refine ⟨(mem_select_drop s w).2 ⟨hr, ha, he⟩, ?_, _, runWords_eq s [w] hl, hdir, harmed,
    fun he' => ⟨_, runWords_eq s _ hl, ?_⟩⟩
  · rw [mem_select_iff_directionOp .rearm rfl (by decide), directionOp_eq_rearm]
    exact ⟨hr, ha, ht, hover⟩
  · obtain ⟨hdir', harmed', -⟩ :=
      (directionRegs_eq_iff ..).1 (directionRegs_after_flip (after s w) w' hr' harmed he')
    exact ⟨hdir'.trans (congrArg flipped hdir), harmed'⟩

/-- An edge and an earlier tick of the cooldown in one cycle. -/
theorem sameCycle_edge_dbCount (s : State) (w : In12) (hl : s.cfg.legal) (hr : w.rst = false)
    (ha : s.armed = false) (he : w.edgeEvt = true) (ht : w.tick = true) (hleft : 2 ≤ s.dbCnt) :
    .drop ∈ select s w ∧ .dbCount ∈ select s w ∧
      ∃ t, runWords s [w] = .next t ∧ t.direction = s.direction ∧ t.armed = false ∧
        t.dbCnt = s.dbCnt - 1 := by
  refine ⟨(mem_select_drop s w).2 ⟨hr, ha, he⟩, ?_, _, runWords_eq s [w] hl,
    (directionRegs_eq_iff ..).1 (directionRegs_after_count s w hr ha ht hleft)⟩
  rw [mem_select_iff_directionOp .dbCount rfl (by decide), directionOp_eq_dbCount]
  exact ⟨hr, ha, ht, hleft⟩

/-- A tick outside the wait. -/
theorem sameCycle_tick_outside_wait (s : State) (w : In12) (hl : s.cfg.legal) (hr : w.rst = false)
    (hp : s.phase ≠ .wait) (ht : w.tick = true) :
    ∃ t, runWords s [w] = .next t ∧ t.phase = phaseAfter s.phase ∧
      t.waitCnt = (if s.phase = .on then s.period else s.waitCnt) ∧
      (s.armed = false →
        (2 ≤ s.dbCnt → t.armed = false ∧ t.dbCnt = s.dbCnt - 1) ∧
        (s.dbCnt ≤ 1 → t.armed = true ∧ t.dbCnt = 0)) := by
  have hcnt : (after s w).waitCnt = (schedulerSlice s w).2.1 :=
    congrArg (·.2.1) (after_schedulerRegs s w hr)
  refine ⟨_, runWords_eq s [w] hl, phase_after_of_transient s w hr hp, ?_,
    fun ha => cooldown_tick s w hr ha ht⟩
  refine hcnt.trans ?_
  rw [schedulerSlice]
  cases h : s.phase with
  | wait => exact absurd h hp
  | on | off | adv => rfl

/-- The word `0x72B`: an edge, a tick and `+` in one cycle. -/
theorem sameCycle_edge_tick_plus (s : State) :
    .faster ∈ select s 0x72B ∧
      (s.armed = true → .flip ∈ select s 0x72B) ∧ (s.armed = false → .drop ∈ select s 0x72B) ∧
      (s.phase = .wait →
        (if s.waitCnt.toNat ≤ 1 then .waitEnd else .waitCount) ∈ select s 0x72B) ∧
      (s.armed = false → (if s.dbCnt ≤ 1 then .rearm else .dbCount) ∈ select s 0x72B) := by
  have hbits : In12.rst 0x72B = false ∧ In12.tick 0x72B = true ∧ In12.edgeEvt 0x72B = true ∧
      In12.rxValid 0x72B = true ∧ In12.rxData 0x72B = 0x2B#8 :=
    ⟨rfl, rfl, rfl, rfl, rfl⟩
  obtain ⟨hr, ht, he, hv, hplus⟩ := hbits
  refine ⟨?_, fun ha => ?_, fun ha => (mem_select_drop s _).2 ⟨hr, ha, he⟩, fun hp => ?_, fun ha => ?_⟩
  · exact (mem_select_iff_speedOp .faster rfl s _).2 ⟨hr, (speedOp_eq_faster _ _).2 ⟨hv, hplus⟩⟩
  · exact (mem_select_iff_directionOp .flip rfl (by decide) s _).2
      ⟨hr, (directionOp_eq_flip s _).2 ⟨ha, he⟩⟩
  · split
    · exact (mem_select_iff_schedulerOp .waitEnd rfl s _).2
        ⟨hr, (schedulerOp_eq_waitEnd s _).2 ⟨hp, ht, ‹_›⟩⟩
    · exact (mem_select_iff_schedulerOp .waitCount rfl s _).2
        ⟨hr, (schedulerOp_eq_waitCount s _).2 ⟨hp, ht, by omega⟩⟩
  · split
    · exact (mem_select_iff_directionOp .rearm rfl (by decide) s _).2
        ⟨hr, (directionOp_eq_rearm s _).2 ⟨ha, ht, ‹_›⟩⟩
    · exact (mem_select_iff_directionOp .dbCount rfl (by decide) s _).2
        ⟨hr, (directionOp_eq_dbCount s _).2 ⟨ha, ht, by omega⟩⟩

/-- Settles O42: the eleven rows of R164 in order. -/
theorem sameCycleCases : Obligations.SameCycleCases := by
  intro s w w' hl hi hr hr'
  refine ⟨sameCycle_flip_adv s w hl hi hr, sameCycle_flip_off s w w' hl hi hr hr',
    sameCycle_byte_on s w w' hl hr hr', fun hp ht _ _ => ?_, fun ha he _ => ⟨?_, ?_⟩,
    sameCycle_edge_rearm s w w' hl hr hr', sameCycle_edge_dbCount s w hl hr, fun hp ha ht => ?_,
    sameCycle_tick_outside_wait s w hl hr, sameCycle_edge_tick_plus s, fun v hv => ⟨?_, ?_⟩⟩
  · exact ⟨_, runWords_eq s [w] hl, wait_tick s w hr hp ht⟩
  · rw [mem_select_iff_directionOp .flip rfl (by decide), directionOp_eq_flip]
    exact ⟨hr, ha, he⟩
  · exact ⟨_, runWords_eq s [w] hl,
      (directionRegs_eq_iff ..).1 (directionRegs_after_flip s w hr ha he)⟩
  · obtain ⟨hleft, hover⟩ := wait_tick s w hr hp ht
    exact ⟨_, runWords_eq s [w] hl, hleft, hover, cooldown_tick s w hr ha ht⟩
  · rw [select_eq, if_pos hv]
  · exact ⟨_, runWords_eq s [v] hl, after_of_rst s v hv⟩

end Sys2Proof.Machine
end

section
/-!
PROOFS. The event-level view (45_cycle.md R170, R171): the labels of a cycle, slice by slice, keep the
correspondence, and so every cycle and every run from reset is a run of the event-level system.
-/

namespace Sys2Proof.Machine

/-! ## The correspondence, slice by slice -/

/-- What the labels `on`, `wake`, `off` and `adv` write. -/
def loopData (e : EventState) : Nat × Memory × LoopPos := (e.index, e.ring, e.position)

/-- What the labels `edge` and `fire` write. -/
def guardData (e : EventState) : Direction × Bool × Option Nat := (e.direction, e.armed, e.timer)

/-- What the label `byte` writes. -/
def speedData (e : EventState) : Int × List StCode := (e.period, e.reports)

/-- The loop's data correspond to the scheduler slice's registers. -/
def LoopAgrees (e : EventState) (s : State) : Prop :=
  e.index = s.index ∧ e.ring = s.led ∧ e.position.agrees s

/-- The guard's data correspond to the direction slice's registers. -/
def GuardAgrees (e : EventState) (s : State) : Prop :=
  e.direction = s.direction ∧ e.armed = s.armed ∧ timerAgrees s e.timer

/-- The speed data correspond to the speed slice's registers. -/
def SpeedAgrees (e : EventState) (s : State) : Prop :=
  e.period = periodInt s ∧ (s.stCode ≠ .none → e.reports.getLast? = some s.stCode)

/-- The correspondence is that of the three slices. -/
theorem corresponds_iff (e : EventState) (s : State) :
    Corresponds e s ↔ LoopAgrees e s ∧ GuardAgrees e s ∧ SpeedAgrees e s :=
  ⟨fun h => ⟨⟨h.index, h.ring, h.position⟩, ⟨h.direction, h.armed, h.timer⟩, ⟨h.period, h.report⟩⟩,
   fun ⟨⟨hindex, hring, hpos⟩, ⟨hdir, harmed, htimer⟩, ⟨hperiod, hreport⟩⟩ =>
    ⟨hindex, hdir, hperiod, harmed, hring, hpos, htimer, hreport⟩⟩

theorem LoopAgrees.congr {e e' : EventState} {s : State} (h : LoopAgrees e s)
    (hdata : loopData e' = loopData e) : LoopAgrees e' s := by
  simp only [loopData, Prod.mk.injEq] at hdata
  obtain ⟨hindex, hring, hpos⟩ := hdata
  rw [LoopAgrees, hindex, hring, hpos]
  exact h

theorem GuardAgrees.congr {e e' : EventState} {s : State} (h : GuardAgrees e s)
    (hdata : guardData e' = guardData e) : GuardAgrees e' s := by
  simp only [guardData, Prod.mk.injEq] at hdata
  obtain ⟨hdir, harmed, htimer⟩ := hdata
  rw [GuardAgrees, hdir, harmed, htimer]
  exact h

/-- The loop's position in each phase. -/
theorem position_of_agrees (s : State) (p : LoopPos) (h : p.agrees s) :
    (s.phase = .on → p = .light) ∧
    (s.phase = .wait → ∃ k : Nat, p = .waiting ((s.waitCnt.toNat : Int) + k) k) ∧
    (s.phase = .off → p = .extinguish) ∧ (s.phase = .adv → p = .advance) := by
  cases p with
  | light | extinguish | advance => simp only [LoopPos.agrees] at h; simp [h]
  | waiting sampled k =>
    obtain ⟨hp, rfl⟩ := h
    simp [hp]

/-- The timer while armed, and in the cooldown. -/
theorem timer_of_agrees (s : State) (timer : Option Nat) (h : timerAgrees s timer) :
    (s.armed = true → timer = none) ∧
    (s.armed = false → ∃ k, timer = some k ∧ s.dbCnt + k = s.cfg.debounceMs) := by
  cases timer with
  | none => simp only [timerAgrees] at h; simp [h]
  | some k => obtain ⟨ha, hsum⟩ := h; simp [ha, hsum]

/-! ## The occurrences of a cycle -/

/-- The event-level state after the cycle's tick, if it has one. -/
def ticked (e : EventState) (w : In12) : EventState := if w.tick then e.passTick else e

/-- A run of one label, if there is one. -/
def runLabel (c : Config) (e : EventState) (l : Option Label) : Option EventState :=
  eventRun c (l.toList.map .label) e

theorem runLabel_none (c : Config) (e : EventState) : runLabel c e none = some e := rfl

theorem runLabel_some (c : Config) (e : EventState) (l : Label) (h : l.enabled c e = true) :
    runLabel c e (some l) = some (l.effect c e) := by
  simp [runLabel, eventRun, occur, h]

/-- The label of the edge, accepted or dropped, comes before `fire`'s. -/
def directionLabels (s : State) (w : In12) : List Label :=
  (dropOps s w).filterMap label ++ (label (directionOp s w)).toList

theorem filterMap_cons_toList {α β : Type} (f : α → Option β) (a : α) (as : List α) :
    (a :: as).filterMap f = (f a).toList ++ as.filterMap f := by
  rw [List.filterMap_cons]
  cases f a <;> rfl

/-- The labels of a cycle without reset, slice by slice. -/
theorem labels_eq (s : State) (w : In12) (hr : w.rst = false) :
    labels s w = (label (schedulerOp s w)).toList ++
      (directionLabels s w ++ (label (speedOp w.rxValid w.rxData)).toList) := by
  rw [labels, select_of_not_rst s w hr, filterMap_cons_toList, List.filterMap_append,
    filterMap_cons_toList, filterMap_cons_toList, List.filterMap_nil, List.append_nil, directionLabels,
    List.append_assoc]

/-- A cycle without reset is its tick and then the labels of its slices. -/
theorem eventRun_cycleEvents (s : State) (e e' e'' : EventState) (w : In12) (hr : w.rst = false)
    (hloop : runLabel s.cfg (ticked e w) (label (schedulerOp s w)) = some e')
    (hguard : eventRun s.cfg ((directionLabels s w).map .label) e' = some e'') :
    eventRun s.cfg (cycleEvents s w) e = runLabel s.cfg e'' (label (speedOp w.rxValid w.rxData)) := by
  have htick : eventRun s.cfg (if w.tick then [.tick] else []) e = some (ticked e w) := by
    rw [ticked]
    cases w.tick <;> rfl
  rw [runLabel] at hloop
  rw [cycleEvents, if_neg (by simp [hr]), labels_eq s w hr, List.map_append, List.map_append,
    eventRun_append, htick, Option.bind_some, eventRun_append, hloop, Option.bind_some, eventRun_append,
    hguard, Option.bind_some, runLabel]

/-- A tick of the wait counts in the position, one outside it does not. -/
theorem ticked_position (e : EventState) (w : In12) :
    (ticked e w).position = if w.tick then e.position.passTick else e.position := by
  rw [ticked]; split <;> rfl

theorem ticked_data (e : EventState) (w : In12) :
    (ticked e w).index = e.index ∧ (ticked e w).ring = e.ring ∧
      (ticked e w).direction = e.direction ∧ (ticked e w).armed = e.armed ∧
      (ticked e w).timer = (if w.tick then e.timer.map (· + 1) else e.timer) ∧
      speedData (ticked e w) = speedData e := by
  rw [ticked]; cases w.tick <;> exact ⟨rfl, rfl, rfl, rfl, rfl, rfl⟩

/-! ## The loop's labels -/

/-- In a transient phase the position does not count the tick. -/
theorem ticked_position_of_transient (e : EventState) (w : In12) (p : LoopPos)
    (hpos : e.position = p) (hfix : p.passTick = p) : (ticked e w).position = p := by
  rw [ticked_position, hpos, hfix, ite_self]

/-- The scheduler's label keeps the loop's data in correspondence and writes nothing else. -/
theorem loop_refines (s : State) (e : EventState) (w : In12) (hr : w.rst = false) (hinv : Inv s)
    (hloop : LoopAgrees e s) (hdir : e.direction = s.direction) (hperiod : e.period = periodInt s) :
    ∃ e', runLabel s.cfg (ticked e w) (label (schedulerOp s w)) = some e' ∧
      LoopAgrees e' (after s w) ∧ guardData e' = guardData (ticked e w) ∧
      speedData e' = speedData (ticked e w) := by
  obtain ⟨hl, hi, ⟨hlow, -⟩, -, -, hwait, -⟩ := hinv
  obtain ⟨hindex, hring, hagrees⟩ := hloop
  obtain ⟨hlight, hwaiting, hextinguish, hadvance⟩ := position_of_agrees s e.position hagrees
  obtain ⟨hindex1, hring1, hdir1, -, -, hspeed1⟩ := ticked_data e w
  have hperiod1 : (ticked e w).period = periodInt s := (congrArg (·.1) hspeed1).trans hperiod
  have hregs := after_schedulerRegs s w hr
  have hwrite (v : Bool) : (ticked e w).ring.write (ticked e w).index v = memWrite s s.index v := by
    rw [memWrite, if_pos hi, hindex1, hring1, hindex, hring]
  obtain ⟨hp, hop, hrow⟩ | ⟨hp, ht, hop, hrow⟩ | ⟨hp, ht, hleft, hop, hrow⟩ |
    ⟨hp, ht, hover, hop, hrow⟩ | ⟨hp, hop, hrow⟩ | ⟨hp, hop, hrow⟩ := scheduler_rows s w <;>
    simp only [hrow] at hregs <;> obtain ⟨hph, hv, hx, hm⟩ := (schedulerRegs_eq_iff ..).1 hregs <;>
    rw [hop]
  · have hpos := ticked_position_of_transient e w _ (hlight hp) rfl
    refine ⟨_, runLabel_some s.cfg _ .on (by simp [Label.enabled, hpos]), ⟨?_, ?_, hph, ?_⟩, rfl, rfl⟩
    · exact hindex1.trans (hindex.trans hx.symm)
    · exact (hwrite true).trans hm.symm
    · obtain ⟨hpositive, -⟩ := legal_bounds s.cfg hl
      rw [periodInt] at hlow
      rw [hv, hperiod1, periodInt, word_toNat_eq_toInt _ (by omega)]
      simp
  · have hsame : ticked e w = e := by rw [ticked, ht]; rfl
    obtain ⟨k, hpos⟩ := hwaiting hp
    refine ⟨_, runLabel_none _ _, ⟨?_, ?_, ?_⟩, rfl, rfl⟩
    · rw [hsame, hindex, hx]
    · rw [hsame, hring, hm]
    · rw [hsame, hpos]
      exact ⟨hph.trans hp, by rw [hv]⟩
  · obtain ⟨k, hpos⟩ := hwaiting hp
    refine ⟨_, runLabel_none _ _, ⟨?_, ?_, ?_⟩, rfl, rfl⟩
    · rw [hindex1, hindex, hx]
    · rw [hring1, hring, hm]
    · rw [ticked_position, ht, if_pos rfl, hpos]
      refine ⟨hph.trans hp, ?_⟩
      rw [hv, toNat_sub_one _ (by omega)]
      omega
  · obtain ⟨k, hpos⟩ := hwaiting hp
    have hwake : Label.wake.enabled s.cfg (ticked e w) = true := by
      simp only [Label.enabled, ticked_position, ht, if_true, hpos, LoopPos.passTick, LoopPos.waitIsOver,
        decide_eq_true_eq]
      push_cast
      omega
    exact ⟨_, runLabel_some s.cfg _ .wake hwake,
      ⟨hindex1.trans (hindex.trans hx.symm), hring1.trans (hring.trans hm.symm), hph⟩, rfl, rfl⟩
  · have hpos := ticked_position_of_transient e w _ (hextinguish hp) rfl
    exact ⟨_, runLabel_some s.cfg _ .off (by simp [Label.enabled, hpos]),
      ⟨hindex1.trans (hindex.trans hx.symm), (hwrite false).trans hm.symm, hph⟩, rfl, rfl⟩
  · have hpos := ticked_position_of_transient e w _ (hadvance hp) rfl
    refine ⟨_, runLabel_some s.cfg _ .adv (by simp [Label.enabled, hpos]),
      ⟨?_, hring1.trans (hring.trans hm.symm), hph⟩, rfl, rfl⟩
    simp only [Label.effect]
    rw [hx, advanceIndex_of_lt s hi, hindex1, hindex, hdir1, hdir]

/-! ## The guard's labels -/

/-- A dropped edge is an `edge` without effect. -/
theorem eventRun_dropped (s : State) (w : In12) (e : EventState) (os : List Occurrence)
    (ha : e.armed = s.armed) :
    eventRun s.cfg (((dropOps s w).filterMap label).map .label ++ os) e = eventRun s.cfg os e := by
  rw [dropOps]
  split
  · rename_i hdrop
    have hcooldown : e.armed = false := by rw [ha]; simp_all
    simp [label, eventRun, occur, Label.enabled, Label.effect, hcooldown]
  · rfl

/-- The guard's labels keep its data in correspondence and write nothing else. -/
theorem guard_refines (s : State) (e e' : EventState) (w : In12) (hr : w.rst = false) (hinv : Inv s)
    (hguard : GuardAgrees e s) (hdata : guardData e' = guardData (ticked e w)) :
    ∃ e'', eventRun s.cfg ((directionLabels s w).map .label) e' = some e'' ∧
      GuardAgrees e'' (after s w) ∧ loopData e'' = loopData e' ∧ speedData e'' = speedData e' := by
  obtain ⟨hl, -, -, ⟨hiff, -⟩, -⟩ := hinv
  obtain ⟨hdir, harmed, hagrees⟩ := hguard
  obtain ⟨hnone, hsome⟩ := timer_of_agrees s e.timer hagrees
  obtain ⟨-, -, hdir1, harmed1, htimer1, -⟩ := ticked_data e w
  simp only [guardData, Prod.mk.injEq, hdir1, harmed1, htimer1] at hdata
  obtain ⟨hdir2, harmed2, htimer2⟩ := hdata
  have hregs := after_directionRegs s w hr
  rw [directionLabels, List.map_append, eventRun_dropped s w e' _ (harmed2.trans harmed),
    show eventRun s.cfg ((label (directionOp s w)).toList.map .label) e' =
      runLabel s.cfg e' (label (directionOp s w)) from rfl]
  obtain ⟨ha, he, hop, hrow⟩ | ⟨ha, he, hop, hrow⟩ | ⟨ha, ht, hop, hrow⟩ |
    ⟨ha, ht, hleft, hop, hrow⟩ | ⟨ha, ht, hover, hop, hrow⟩ := direction_rows s w <;>
    rw [hrow] at hregs <;> obtain ⟨hd, hg, hk⟩ := (directionRegs_eq_iff ..).1 hregs <;> rw [hop]
  · have heffect : Label.edge.effect s.cfg e' =
        { e' with direction := flipped e'.direction, armed := false, timer := some 0 } := by
      rw [Label.effect, if_pos (by rw [harmed2, harmed, ha])]
    refine ⟨_, runLabel_some s.cfg e' .edge rfl, ?_, by rw [heffect]; rfl, by rw [heffect]; rfl⟩
    rw [heffect]
    exact ⟨by rw [hd, hdir2, hdir], hg.symm, hg, by rw [hk, after_cfg]; rfl⟩
  · have htimer : e'.timer = none := by rw [htimer2, hnone ha]; simp
    refine ⟨_, runLabel_none _ _, ⟨hdir2.trans (hdir.trans hd.symm),
      harmed2.trans (harmed.trans hg.symm), ?_⟩, rfl, rfl⟩
    rw [htimer]
    exact hg.trans ha
  · obtain ⟨k, hpos, hsum⟩ := hsome ha
    have htimer : e'.timer = some k := by rw [htimer2, hpos, ht]; rfl
    refine ⟨_, runLabel_none _ _, ⟨hdir2.trans (hdir.trans hd.symm),
      harmed2.trans (harmed.trans hg.symm), ?_⟩, rfl, rfl⟩
    rw [htimer]
    exact ⟨hg.trans ha, by rw [hk, after_cfg, hsum]⟩
  · obtain ⟨k, hpos, hsum⟩ := hsome ha
    have htimer : e'.timer = some (k + 1) := by rw [htimer2, hpos, ht]; rfl
    refine ⟨_, runLabel_none _ _, ⟨hdir2.trans (hdir.trans hd.symm),
      harmed2.trans (harmed.trans hg.symm), ?_⟩, rfl, rfl⟩
    rw [htimer]
    exact ⟨hg.trans ha, by rw [hk, after_cfg, ← hsum]; omega⟩
  · obtain ⟨k, hpos, hsum⟩ := hsome ha
    have htimer : e'.timer = some (k + 1) := by rw [htimer2, hpos, ht]; rfl
    have hfire : Label.fire.enabled s.cfg e' = true := by
      simp only [Label.enabled, harmed2, harmed, ha, htimer, timerIsOver, Bool.not_false, Bool.true_and,
        decide_eq_true_eq]
      omega
    exact ⟨_, runLabel_some s.cfg e' .fire hfire,
      ⟨hdir2.trans (hdir.trans hd.symm), hg.symm, hg⟩, rfl, rfl⟩

/-! ## The speed's label -/

/-- What a byte leaves in the registers is what the label leaves in the view. -/
theorem after_speed_of_byte (s : State) (w : In12) (hl : s.cfg.legal) (hr : w.rst = false)
    (hv : w.rxValid = true) :
    periodInt (after s w) = bytePeriod s.cfg (periodInt s) w.rxData ∧
      (after s w).stCode = byteReport s.cfg (periodInt s) w.rxData := by
  rw [bytePeriod, byteReport]
  by_cases hplus : w.rxData = 0x2B#8
  · rw [if_pos hplus, if_pos hplus]
    exact after_speed_of_plus s w hl hr hv hplus
  · rw [if_neg hplus, if_neg hplus]
    by_cases hminus : w.rxData = 0x2D#8
    · rw [if_pos hminus, if_pos hminus]
      exact after_speed_of_minus s w hl hr hv hminus
    · rw [if_neg hminus, if_neg hminus]
      obtain ⟨hperiod, hreport⟩ := after_speed_of_invalid s w hr hv hplus hminus
      exact ⟨congrArg BitVec.toInt hperiod, hreport⟩

/-- The label of the speed operation is that of the byte. -/
theorem label_speedOp (v : Bool) (d : Byte) :
    label (speedOp v d) = if v then some (.byte d) else none := by
  cases v with
  | false => rfl
  | true =>
    simp only [speedOp, decodeCommand, if_true]
    split
    · subst_vars; rfl
    · split
      · subst_vars; rfl
      · rfl

/-- The byte's label keeps the speed data in correspondence, makes one report and writes nothing else. -/
theorem speed_refines (s : State) (e e' : EventState) (w : In12) (hl : s.cfg.legal) (hr : w.rst = false)
    (hspeed : SpeedAgrees e s) (hdata : speedData e' = speedData e) :
    ∃ e'', runLabel s.cfg e' (label (speedOp w.rxValid w.rxData)) = some e'' ∧
      SpeedAgrees e'' (after s w) ∧ loopData e'' = loopData e' ∧ guardData e'' = guardData e' ∧
      e''.reports.length = e.reports.length + if w.rxValid then 1 else 0 := by
  simp only [speedData, Prod.mk.injEq] at hdata
  obtain ⟨hperiod, hreports⟩ := hdata
  have hread : e'.period = periodInt s := hperiod.trans hspeed.1
  rw [label_speedOp]
  cases hv : w.rxValid with
  | false =>
    obtain ⟨hsame, hnone⟩ := after_speed_of_noByte s w hr hv
    exact ⟨_, runLabel_none _ _, ⟨hread.trans (congrArg BitVec.toInt hsame.symm), absurd hnone⟩,
      rfl, rfl, congrArg List.length hreports⟩
  | true =>
    obtain ⟨hafter, hreport⟩ := after_speed_of_byte s w hl hr hv
    refine ⟨_, runLabel_some s.cfg e' (.byte w.rxData) rfl, ⟨?_, fun _ => ?_⟩, rfl, rfl, ?_⟩
    · simp only [Label.effect, hread, hafter]
    · simp only [Label.effect, hread, hreport, List.getLast?_append, List.getLast?_singleton,
        Option.some_or]
    · simp only [Label.effect, List.length_append, hreports, if_true, List.length_singleton]

/-! ## Cycles -/

/-- A cycle is a run of the event-level system between corresponding states, and reports each byte. -/
theorem cycle_refines (s : State) (e : EventState) (w : In12) (hinv : Inv s) (h : Corresponds e s) :
    ∃ e', eventRun s.cfg (cycleEvents s w) e = some e' ∧ Corresponds e' (after s w) ∧
      (w.rst = false → e'.reports.length = e.reports.length + if w.rxValid then 1 else 0) := by
  have ⟨hl, _⟩ := hinv
  cases hr : w.rst with
  | true =>
    refine ⟨EventState.start s.cfg, by rw [cycleEvents, if_pos hr]; rfl, ?_, by simp⟩
    rw [after_of_rst s w hr]
    obtain ⟨hpos, htimer⟩ := start_agrees s.cfg
    exact ⟨rfl, rfl, (toInt_ofInt_initPeriod s.cfg hl).symm, rfl, rfl, hpos, htimer, absurd rfl⟩
  | false =>
    obtain ⟨hloop, hguard, hspeed⟩ := (corresponds_iff e s).1 h
    obtain ⟨e1, hrun1, hloop1, hguard1, hspeed1⟩ :=
      loop_refines s e w hr hinv hloop hguard.1 hspeed.1
    obtain ⟨e2, hrun2, hguard2, hloop2, hspeed2⟩ := guard_refines s e e1 w hr hinv hguard hguard1
    obtain ⟨-, -, -, -, -, hticked⟩ := ticked_data e w
    obtain ⟨e3, hrun3, hspeed3, hloop3, hguard3, hlen⟩ :=
      speed_refines s e e2 w hl hr hspeed (hspeed2.trans (hspeed1.trans hticked))
    exact ⟨e3, (eventRun_cycleEvents s e e1 e2 w hr hrun1 hrun2).trans hrun3,
      (corresponds_iff _ _).2 ⟨hloop1.congr (hloop3.trans hloop2), hguard2.congr hguard3, hspeed3⟩,
      fun _ => hlen⟩

/-- Which cycles hold `wake` and `fire`. -/
theorem mem_labels_wake_fire (s : State) (w : In12) :
    (.wake ∈ labels s w ↔ w.rst = false ∧ s.phase = .wait ∧ w.tick = true ∧ s.waitCnt.toNat ≤ 1) ∧
    (.fire ∈ labels s w ↔ w.rst = false ∧ s.armed = false ∧ w.tick = true ∧ s.dbCnt ≤ 1) := by
  have hwake (i : Instr) : label i = some .wake ↔ i = .waitEnd := by cases i <;> simp [label]
  have hfire (i : Instr) : label i = some .fire ↔ i = .rearm := by cases i <;> simp [label]
  simp only [labels, List.mem_filterMap, hwake, hfire, exists_eq_right]
  rw [mem_select_iff_schedulerOp .waitEnd rfl, schedulerOp_eq_waitEnd,
    mem_select_iff_directionOp .rearm rfl (by decide), directionOp_eq_rearm]
  exact ⟨Iff.rfl, Iff.rfl⟩

/-- `wake` is enabled when no more ticks are left, and so before the tick never. -/
theorem wake_enabled_iff (s : State) (e : EventState) (hinv : Inv s) (h : Corresponds e s) :
    Label.wake.enabled s.cfg e = false ∧
      (Label.wake.enabled s.cfg e.passTick = true ↔ s.phase = .wait ∧ s.waitCnt.toNat ≤ 1) := by
  obtain ⟨-, -, -, -, -, hwait, -⟩ := hinv
  obtain ⟨hlight, hwaiting, hextinguish, hadvance⟩ := position_of_agrees s e.position h.position
  simp only [Label.enabled, passTick_position]
  cases hp : s.phase with
  | on => simp [hlight hp, LoopPos.passTick, LoopPos.waitIsOver]
  | off => simp [hextinguish hp, LoopPos.passTick, LoopPos.waitIsOver]
  | adv => simp [hadvance hp, LoopPos.passTick, LoopPos.waitIsOver]
  | wait =>
    obtain ⟨k, hpos⟩ := hwaiting hp
    obtain ⟨-, hone, -⟩ := hwait hp
    simp only [hpos, LoopPos.passTick, LoopPos.waitIsOver, decide_eq_false_iff_not, decide_eq_true_eq,
      true_and]
    omega

/-- `fire` is enabled when no more ticks are left, and so before the tick never. -/
theorem fire_enabled_iff (s : State) (e : EventState) (hinv : Inv s) (h : Corresponds e s) :
    Label.fire.enabled s.cfg e = false ∧
      (Label.fire.enabled s.cfg e.passTick = true ↔ s.armed = false ∧ s.dbCnt ≤ 1) := by
  obtain ⟨-, -, -, ⟨hiff, -⟩, -⟩ := hinv
  obtain ⟨-, hsome⟩ := timer_of_agrees s e.timer h.timer
  simp only [Label.enabled, passTick_armed, passTick_timer, h.armed]
  cases ha : s.armed with
  | true => simp
  | false =>
    obtain ⟨k, htimer, hsum⟩ := hsome ha
    have hone : s.dbCnt ≠ 0 := fun h0 => by simp [hiff.2 h0] at ha
    simp only [htimer, timerIsOver, Option.map_some, Bool.not_false, Bool.true_and,
      decide_eq_false_iff_not, decide_eq_true_eq, true_and]
    omega

/-- Settles O58: the run of the cycle, and when the two timed labels are enabled and happen. -/
theorem cycleRefinesEventView : Obligations.CycleRefinesEventView := by
  intro s e w hinv h
  obtain ⟨e', hrun, hcorr, -⟩ := cycle_refines s e w hinv h
  obtain ⟨hwakeIn, hfireIn⟩ := mem_labels_wake_fire s w
  obtain ⟨hnoWake, hwake⟩ := wake_enabled_iff s e hinv h
  obtain ⟨hnoFire, hfire⟩ := fire_enabled_iff s e hinv h
  refine ⟨⟨_, e', step_under s w hinv.1, hrun, hcorr⟩, hnoWake, hnoFire, fun hr ht => ⟨?_, ?_⟩,
    fun ht => ⟨?_, ?_⟩⟩
  · rw [hwakeIn, hwake]; simp [hr, ht]
  · rw [hfireIn, hfire]; simp [hr, ht]
  · rw [hwakeIn]; simp [ht]
  · rw [hfireIn]; simp [ht]

/-! ## Runs -/

/-- A run from corresponding states ends in corresponding states, and reports each byte. -/
theorem run_refines (s : State) (e : EventState) (ws : List In12) (hinv : Inv s)
    (h : Corresponds e s) :
    ∃ e', eventRun s.cfg (runEvents s ws) e = some e' ∧ Corresponds e' (runState s ws) ∧
      (ResetFree ws → e'.reports.length = e.reports.length + ws.countP In12.rxValid) := by
  induction ws generalizing s e with
  | nil => exact ⟨e, rfl, h, fun _ => rfl⟩
  | cons w ws ih =>
    obtain ⟨e1, hrun1, hcorr1, hlen1⟩ := cycle_refines s e w hinv h
    obtain ⟨e2, hrun2, hcorr2, hlen2⟩ := ih (after s w) e1 (inv_after s w hinv) hcorr1
    rw [after_cfg] at hrun2
    refine ⟨e2, ?_, hcorr2, fun hfree => ?_⟩
    · rw [runEvents_cons s _ w ws (step_under s w hinv.1), eventRun_append, hrun1, Option.bind_some,
        hrun2]
    · obtain ⟨hr, hrest⟩ := List.forall_mem_cons.1 hfree
      rw [hlen2 hrest, hlen1 hr, List.countP_cons]
      omega

/-- The start of the event-level system corresponds to the reset state. -/
theorem start_corresponds (c : Config) (hl : c.legal) :
    Corresponds (EventState.start c) (State.resetWith c) := by
  obtain ⟨hpos, htimer⟩ := start_agrees c
  exact ⟨rfl, rfl, (toInt_ofInt_initPeriod c hl).symm, rfl, rfl, hpos, htimer, absurd rfl⟩

/-- Settles O59: the reset state and the start correspond, and every cycle keeps the correspondence. -/
theorem runRefinesEventView : Obligations.RunRefinesEventView := by
  intro c ws hl
  obtain ⟨e, hrun, hcorr, hlen⟩ := run_refines (State.resetWith c) (EventState.start c) ws
    (invariantAtReset c hl) (start_corresponds c hl)
  exact ⟨_, e, runWords_eq _ ws hl, hrun, hcorr, fun hfree => (hlen hfree).trans (Nat.zero_add _)⟩

end Sys2Proof.Machine
end
